-- ==== Sys2Proof/Word.lean ====
section
/-!
DEFINITION. The widths of the block's words (00_scope.md R6) and nothing else: a register, the payload, the binary64
value, the CRC, the polynomial, the host transaction. Bit 0 of a word is its least significant bit (R7).
-/

namespace Sys2Proof

/-- One register, "a 16-bit unsigned integer" (R6 REG_WIDTH); also a register number (R50) and a command word (R72). -/
abbrev Word := BitVec 16

/-- The 32-bit encoded float (R6 PAYLOAD_WIDTH). Character `bits[i]` of the payload string is bit `31 - i` (R8). -/
abbrev Payload := BitVec 32

/-- A 64-bit IEEE-754 binary64 word (R6 VALUE_FORMAT, R10); also the 64-bit CRC data word CRCIN (R29). -/
abbrev Word64 := BitVec 64

/-- A 4-bit CRC (R6 CRC_WIDTH); string character `k` is bit `3 - k` (R151). -/
abbrev Nibble := BitVec 4

/-- A 5-bit polynomial (R6 POLY_WIDTH); string character `j` is bit `4 - j` (R75). -/
abbrev Poly := BitVec 5

/-- One host transaction, format HT (R70): bit 32 WR, bits 31:16 ADDR, bits 15:0 DATA. -/
abbrev Transaction := BitVec 33

end Sys2Proof
end

