-- ==== Sys2Proof/Syntax.lean ====
section
/-!
DEFINITION. The block's instructions: one constructor for each row of spec/opcode_table.json. They are the host's
transactions (00_scope.md R5): READ, WRITE, and the command writes, of which ILLEGAL is the catch-all row.
-/

namespace Sys2Proof

/-- One host transaction, decoded (30_encoding.md R70 to R73). A command has no operand fields: its operands are in
fixed registers (R74). -/
inductive Instr where
  /-- READ (R100): register number `a`. `x` is the DATA field, which the block ignores; it is kept so that no bit of the
  transaction is lost by decoding (log entry 5). -/
  | read (a x : Word)
  /-- WRITE (R101): register number `a`, value `d`. A well-formed WRITE has `a ≠ 16` (R71). -/
  | write (a d : Word)
  /-- ENCODE (R123), command word 0x0001. -/
  | encode
  /-- DECODE (R126), command word 0x0002. -/
  | decode
  /-- CRC4 (R155), command word 0x0003. -/
  | crc4
  /-- PACK (R183), command word 0x0004. -/
  | pack
  /-- UNPACK (R184), command word 0x0005. -/
  | unpack
  /-- SEND (R200), command word 0x0006. -/
  | send
  /-- RECEIVE (R201), command word 0x0007. -/
  | receive
  /-- ILLEGAL (R103): a command write whose word `c` is 0x0000, 0x0008 to 0x000F, or has bits 15:4 ≠ 0 (R76). -/
  | illegal (c : Word)
  deriving DecidableEq, Repr

end Sys2Proof
end

