-- ==== Sys2Proof/Config.lean ====
section
/-!
DEFINITION. The implementation parameters of 00_scope.md R6 that the model uses by name. "No parameter is left open":
the spec leaves the machine no free value, so nothing here is opaque.
-/

namespace Sys2Proof.Config

/-- R6 DEFAULT_POLY: `10011`, that is x^4 + x + 1. PACK's partners (validation, SEND, RECEIVE) always use it (R30, R182). -/
def defaultPoly : Poly := 0b10011#5

/-- R6 PAYLOAD_WIDTH, the length over which validation, SEND and RECEIVE take the CRC. -/
def payloadWidth : Nat := 32

/-- R6 CRC_MAX_LEN: the longest input of the CRC4 command. -/
def crcMaxLen : Nat := 64

/-- R6 CRC_APPEND: the zeros appended before the division. -/
def crcAppend : Nat := 4

/-- R22, R51: the register number of COMMAND, the one address whose WRITE runs a command (R71). -/
def commandAddr : Word := 16#16

/-- 10_state.md R30, R37: the reset value of CRC_CFG, LEN = 32 and POLY = `10011`. -/
def crcCfgReset : Word := 0x1320#16

end Sys2Proof.Config
end

