-- ==== Sys2Proof/WellFormed.lean ====
section
/-!
DEFINITION. Which terms of Instr are instructions of the table: WRITE never names COMMAND (30_encoding.md R71), and
ILLEGAL never carries a word that R73 assigns to a command.
-/

namespace Sys2Proof

/-- R73: the command words 0x0001 to 0x0007 encode a command. Every other word is illegal (R76). -/
def legalCommandWord (c : Word) : Bool :=
  decide (1 ≤ c.toNat) && decide (c.toNat ≤ 7)

/-- The term is an instruction of spec/opcode_table.json with operands the row admits. -/
def Instr.wf : Instr → Bool
  | .read _ _ => true
  | .write a _ => a != Config.commandAddr
  | .encode => true
  | .decode => true
  | .crc4 => true
  | .pack => true
  | .unpack => true
  | .send => true
  | .receive => true
  | .illegal c => !legalCommandWord c

/-- The instruction is a command write: a WRITE to COMMAND (R71), legal or illegal. -/
def Instr.isCommand : Instr → Bool
  | .read _ _ => false
  | .write a _ => a == Config.commandAddr
  | .encode => true
  | .decode => true
  | .crc4 => true
  | .pack => true
  | .unpack => true
  | .send => true
  | .receive => true
  | .illegal _ => true

end Sys2Proof
end

