-- ==== Sys2Proof/Decode.lean ====
section
/-!
DEFINITION. The decoder of host transactions (30_encoding.md R70 to R76), total on every 33-bit word, and after it the
encoder, written from the same tables. "Every 33-bit word is a valid transaction" (R70), so the one thing the decoder
rejects, by name, is a number that is no 33-bit word.
-/

namespace Sys2Proof

/-- R70: WR, bit 32. -/
def wrField (t : Transaction) : Bool := t.getLsbD 32

/-- R70: ADDR, bits 31:16. -/
def addrField (t : Transaction) : Word := t.extractLsb' 16 16

/-- R70: DATA, bits 15:0. -/
def dataField (t : Transaction) : Word := t.extractLsb' 0 16

/-- R72: ZERO, bits 15:4 of a command word. -/
def zeroField (c : Word) : BitVec 12 := c.extractLsb' 4 12

/-- R72: OPC, bits 3:0 of a command word. -/
def opcField (c : Word) : BitVec 4 := c.extractLsb' 0 4

/-- R72, R73, R76: the command that a command word encodes. -/
def decodeCommand (c : Word) : Instr :=
  if zeroField c ≠ 0#12 then .illegal c
  else
    match (opcField c).toNat with
    | 1 => .encode
    | 2 => .decode
    | 3 => .crc4
    | 4 => .pack
    | 5 => .unpack
    | 6 => .send
    | 7 => .receive
    | _ => .illegal c

/-- R71: `WR = 1` and `ADDR = 16` is a command write; every other `WR = 1` a WRITE; every `WR = 0` a READ. -/
def decode (t : Transaction) : Instr :=
  if wrField t then
    if addrField t = Config.commandAddr then decodeCommand (dataField t)
    else .write (addrField t) (dataField t)
  else .read (addrField t) (dataField t)

/-- R70: the word with these fields, `WR ++ ADDR ++ DATA`. -/
def htWord (wr : BitVec 1) (a d : Word) : Transaction := wr ++ a ++ d

/-- R71: the transaction that writes command word `c` to COMMAND. -/
def commandTransaction (c : Word) : Transaction := htWord 1#1 Config.commandAddr c

/-- The transaction that stands for an instruction (R70, R73). -/
def encode : Instr → Transaction
  | .read a x => htWord 0#1 a x
  | .write a d => htWord 1#1 a d
  | .encode => commandTransaction 0x0001#16
  | .decode => commandTransaction 0x0002#16
  | .crc4 => commandTransaction 0x0003#16
  | .pack => commandTransaction 0x0004#16
  | .unpack => commandTransaction 0x0005#16
  | .send => commandTransaction 0x0006#16
  | .receive => commandTransaction 0x0007#16
  | .illegal c => commandTransaction c

/-- Why a number is not a transaction. -/
inductive Rejection where
  /-- The number does not fit the format of its row: 33 bits for format HT (R70), 16 bits for format CMD (R72). -/
  | widerThanFormat
  deriving DecidableEq, Repr

/-- The transaction of a row of spec/opcode_table.json whose bits are `w`. The table writes a row of format HT with 33
bits, and a row of format CMD with the 16 bits of its COMMAND WORD, the DATA of a write to COMMAND (R71, R72); so a row of
at most 16 bits is a command word (log entry 6). -/
def tableTransaction (nbits w : Nat) : Except Rejection Transaction :=
  if nbits ≤ 16 then
    if w < 2 ^ 16 then .ok (commandTransaction (BitVec.ofNat 16 w)) else .error .widerThanFormat
  else if w < 2 ^ 33 then .ok (BitVec.ofNat 33 w) else .error .widerThanFormat

/-- The instruction the decoder reads from a row's word `w`, numbered as spec/opcode_table.json numbers it. -/
def decodeTableWord (nbits w : Nat) : Option Instr :=
  match tableTransaction nbits w with
  | .ok t => some (decode t)
  | .error _ => none

end Sys2Proof
end

