-- ==== Sys2Proof/Machine/State.lean ====
section
/-!
DEFINITION. The state of the block (10_state.md R20, R22): the stored contents of its registers, and beside them the
two fields the model needs to say what the host does: the transactions to come and the value the last one returned.
-/

namespace Sys2Proof.Machine

/-- The 17 implemented registers by name (R22). -/
inductive Reg where
  | highWord | lowWord | crcWord
  | payloadHi | payloadLo
  | value3 | value2 | value1 | value0
  | crcIn3 | crcIn2 | crcIn1 | crcIn0
  | crcCfg | crcOut | status | command
  deriving DecidableEq, Repr

/-- The stored register contents (R20). COMMAND (register 16) "has no storage" (R34), so it has no field. The bits outside
a register's store mask are 0 in every state a run reaches (R36; log entry 9). -/
structure Regs where
  /-- Register 0, HIGH_WORD (R24). -/
  highWord : Word
  /-- Register 1, LOW_WORD (R25). -/
  lowWord : Word
  /-- Register 2, CRC_WORD (R26). -/
  crcWord : Word
  /-- Register 3, PAYLOAD_HI (R27). -/
  payloadHi : Word
  /-- Register 4, PAYLOAD_LO (R27). -/
  payloadLo : Word
  /-- Register 5, VALUE3 (R28). -/
  value3 : Word
  /-- Register 6, VALUE2 (R28). -/
  value2 : Word
  /-- Register 7, VALUE1 (R28). -/
  value1 : Word
  /-- Register 8, VALUE0 (R28). -/
  value0 : Word
  /-- Register 9, CRCIN3 (R29). -/
  crcIn3 : Word
  /-- Register 10, CRCIN2 (R29). -/
  crcIn2 : Word
  /-- Register 11, CRCIN1 (R29). -/
  crcIn1 : Word
  /-- Register 12, CRCIN0 (R29). -/
  crcIn0 : Word
  /-- Register 13, CRC_CFG: LEN 6:0, POLY 12:8 (R30). -/
  crcCfg : Word
  /-- Register 14, CRC_OUT: bits 3:0 (R31). -/
  crcOut : Word
  /-- Register 15, STATUS: CODE 2:0, CRC_CALC 7:4, CRC_RECV 11:8 (R32). -/
  status : Word
  deriving DecidableEq, Repr

/-- What the outside world does to the block: a host transaction (R70) or the platform's reset, which comes between two
transactions (R250). -/
inductive PortEvent where
  /-- The host issues the 33-bit transaction. -/
  | transaction (t : Transaction)
  /-- The platform asserts reset. -/
  | reset
  deriving DecidableEq, Repr

/-- The whole state. `regs` is the block's (R20: nothing else is its state); `port` and `readData` are the model's own. -/
structure State where
  /-- The block's registers. -/
  regs : Regs
  /-- MODEL'S OWN (log entry 1): the events to come, in the order in which they are issued (R60). -/
  port : List PortEvent
  /-- MODEL'S OWN (log entry 2): what the last transaction returned to the host: a value after a READ, nothing after a
  WRITE (R70) or a reset. -/
  readData : Option Word
  deriving DecidableEq, Repr

/-- The result codes of STATUS.CODE (60_exceptions.md R220). -/
inductive ResultCode where
  | ok | invalidInput | checksumMismatch | rangeOverflow | illegalCommand
  deriving DecidableEq, Repr

/-- The reasons for which the machine stops with a fault: none. "No operation is fatal": every error is a value in STATUS
and the next command is accepted in the same way (60_exceptions.md R221, R226, R227), so no meaning raises a fault. -/
inductive Fault where
  deriving DecidableEq, Repr

/-- The reasons for which an instruction has no meaning. -/
inductive Refusal where
  /-- Raised only by an arm of exec for an instruction with no meaning yet (no arm is left so); safe: it stops. -/
  | notModelled (mnemonic : String)
  deriving DecidableEq, Repr

/-- The outcome of one step of this machine. -/
abbrev Outcome := Host.Outcome State Fault Refusal

/-- The register values after reset (R37): all 0 but CRC_CFG. -/
def Regs.reset : Regs where
  highWord := 0x0000#16
  lowWord := 0x0000#16
  crcWord := 0x0000#16
  payloadHi := 0x0000#16
  payloadLo := 0x0000#16
  value3 := 0x0000#16
  value2 := 0x0000#16
  value1 := 0x0000#16
  value0 := 0x0000#16
  crcIn3 := 0x0000#16
  crcIn2 := 0x0000#16
  crcIn1 := 0x0000#16
  crcIn0 := 0x0000#16
  crcCfg := Config.crcCfgReset
  crcOut := 0x0000#16
  status := 0x0000#16

/-- The machine right after reset (R37, R250): no event waits at the port, and nothing has been returned. -/
def State.reset : State where
  regs := Regs.reset
  port := []
  readData := none

end Sys2Proof.Machine
end

