-- ==== Sys2Proof/Machine/Flags.lean ====
section
/-!
DEFINITION. The block's only condition code, the STATUS word (10_state.md R32, R33): how a command's result code and the
two CRCs are assembled into it, and its fields. The block has no carry, overflow or zero flag (00_scope.md R13).
-/

namespace Sys2Proof.Machine

/-- The 3-bit code of a result (60_exceptions.md R220). -/
def ResultCode.code : ResultCode → BitVec 3
  | .ok => 0#3
  | .invalidInput => 1#3
  | .checksumMismatch => 2#3
  | .rangeOverflow => 3#3
  | .illegalCommand => 4#3

/-- The STATUS word `(recv << 8) | (computed << 4) | code` (R32, R184). -/
def statusWord (recv computed : Nibble) (c : ResultCode) : Word :=
  (recv.setWidth 16 <<< 8) ||| (computed.setWidth 16 <<< 4) ||| c.code.setWidth 16

/-- STATUS.CODE, bits 2:0 (R32). -/
def statusCode (st : Word) : BitVec 3 := st.extractLsb' 0 3

/-- STATUS.CRC_CALC, bits 7:4 (R32). -/
def statusCalc (st : Word) : Nibble := st.extractLsb' 4 4

/-- STATUS.CRC_RECV, bits 11:8 (R32). -/
def statusRecv (st : Word) : Nibble := st.extractLsb' 8 4

end Sys2Proof.Machine
end

