-- ==== Sys2Proof/Machine/Ops.lean ====
section
/-!
DEFINITION. The shared operations: the register space and its masks (10_state.md R36, 20_memory.md R51), the host's read
and write of one register (40_host_bus.md R100, R101), how a command ends, with or without an error (00_scope.md R9,
60_exceptions.md R221), reset (70_reset_and_hazards.md R250) and the port's next event. The block has no traps (R226):
reporting an error in STATUS is all that happens, and there is nothing to return from (R227).
-/

namespace Sys2Proof.Machine

/-- The number of a register (R22). -/
def Reg.number : Reg → Word
  | .highWord => 0#16
  | .lowWord => 1#16
  | .crcWord => 2#16
  | .payloadHi => 3#16
  | .payloadLo => 4#16
  | .value3 => 5#16
  | .value2 => 6#16
  | .value1 => 7#16
  | .value0 => 8#16
  | .crcIn3 => 9#16
  | .crcIn2 => 10#16
  | .crcIn1 => 11#16
  | .crcIn0 => 12#16
  | .crcCfg => 13#16
  | .crcOut => 14#16
  | .status => 15#16
  | .command => 16#16

/-- The register a number names; `none` for the unimplemented numbers 17 to 65535 (R22, R51). -/
def regAt (a : Word) : Option Reg :=
  match a.toNat with
  | 0 => some .highWord
  | 1 => some .lowWord
  | 2 => some .crcWord
  | 3 => some .payloadHi
  | 4 => some .payloadLo
  | 5 => some .value3
  | 6 => some .value2
  | 7 => some .value1
  | 8 => some .value0
  | 9 => some .crcIn3
  | 10 => some .crcIn2
  | 11 => some .crcIn1
  | 12 => some .crcIn0
  | 13 => some .crcCfg
  | 14 => some .crcOut
  | 15 => some .status
  | 16 => some .command
  | _ => none

/-- The stored-bit masks (R36). -/
def mask : Reg → Word
  | .crcCfg => 0x1F7F#16
  | .crcOut => 0x000F#16
  | .status => 0x0FF7#16
  | .command => 0x0000#16
  | .highWord => 0xFFFF#16
  | .lowWord => 0xFFFF#16
  | .crcWord => 0xFFFF#16
  | .payloadHi => 0xFFFF#16
  | .payloadLo => 0xFFFF#16
  | .value3 => 0xFFFF#16
  | .value2 => 0xFFFF#16
  | .value1 => 0xFFFF#16
  | .value0 => 0xFFFF#16
  | .crcIn3 => 0xFFFF#16
  | .crcIn2 => 0xFFFF#16
  | .crcIn1 => 0xFFFF#16
  | .crcIn0 => 0xFFFF#16

/-- The contents of a register. COMMAND has no storage and reads 0 (R34). -/
def Regs.get (r : Regs) : Reg → Word
  | .highWord => r.highWord
  | .lowWord => r.lowWord
  | .crcWord => r.crcWord
  | .payloadHi => r.payloadHi
  | .payloadLo => r.payloadLo
  | .value3 => r.value3
  | .value2 => r.value2
  | .value1 => r.value1
  | .value0 => r.value0
  | .crcIn3 => r.crcIn3
  | .crcIn2 => r.crcIn2
  | .crcIn1 => r.crcIn1
  | .crcIn0 => r.crcIn0
  | .crcCfg => r.crcCfg
  | .crcOut => r.crcOut
  | .status => r.status
  | .command => 0x0000#16

/-- `x[g] <- v`: stores `v & MASK[g]` (R9, R36), the one way in which any register is written. -/
def Regs.put (r : Regs) (g : Reg) (v : Word) : Regs :=
  match g with
  | .highWord => { r with highWord := v &&& mask .highWord }
  | .lowWord => { r with lowWord := v &&& mask .lowWord }
  | .crcWord => { r with crcWord := v &&& mask .crcWord }
  | .payloadHi => { r with payloadHi := v &&& mask .payloadHi }
  | .payloadLo => { r with payloadLo := v &&& mask .payloadLo }
  | .value3 => { r with value3 := v &&& mask .value3 }
  | .value2 => { r with value2 := v &&& mask .value2 }
  | .value1 => { r with value1 := v &&& mask .value1 }
  | .value0 => { r with value0 := v &&& mask .value0 }
  | .crcIn3 => { r with crcIn3 := v &&& mask .crcIn3 }
  | .crcIn2 => { r with crcIn2 := v &&& mask .crcIn2 }
  | .crcIn1 => { r with crcIn1 := v &&& mask .crcIn1 }
  | .crcIn0 => { r with crcIn0 := v &&& mask .crcIn0 }
  | .crcCfg => { r with crcCfg := v &&& mask .crcCfg }
  | .crcOut => { r with crcOut := v &&& mask .crcOut }
  | .status => { r with status := v &&& mask .status }
  | .command => r

/-- What a READ of register number `a` returns (R100): the stored bits with all other bits 0 (R36), 0 for COMMAND and for
an unimplemented number (R51). -/
def readReg (r : Regs) (a : Word) : Word :=
  match regAt a with
  | some g => r.get g &&& mask g
  | none => 0x0000#16

/-- What a WRITE of `d` to register number `a` other than COMMAND stores (R101): nothing in STATUS, which is read-only to
the host, and nothing at an unimplemented number. -/
def writeReg (r : Regs) (a d : Word) : Regs :=
  match regAt a with
  | some .status => r
  | some .command => r
  | some g => r.put g d
  | none => r

/-- Write STATUS, the last thing every command does (R32, R221). -/
def Regs.report (r : Regs) (recv computed : Nibble) (c : ResultCode) : Regs :=
  r.put .status (statusWord recv computed c)

/-- A transaction that returns nothing to the host (R70) ends with these registers. -/
def State.finish (s : State) (r : Regs) : Outcome :=
  .next { s with regs := r, readData := none }

/-- A command ends with code OK and both CRC fields 0 (R220, row OK), its result registers being those of `r`. -/
def State.succeed (s : State) (r : Regs) : Outcome :=
  s.finish (r.report 0#4 0#4 .ok)

/-- `raise <Error>` (R9) for the errors that change only STATUS (R221: INVALID_INPUT, RANGE_OVERFLOW, ILLEGAL_COMMAND):
the code, with both CRC fields 0. -/
def State.raise (s : State) (c : ResultCode) : Outcome :=
  s.finish (s.regs.report 0#4 0#4 c)

/-- A READ returns a value to the host and changes no register (R100). -/
def State.respond (s : State) (v : Word) : Outcome :=
  .next { s with readData := some v }

/-- The reset event (R250): every register takes its reset value in one step. -/
def State.applyReset (s : State) : State :=
  { s with regs := Regs.reset, readData := none }

/-- The port's next event, and the state with that event taken from the port; nothing while the host issues nothing. -/
def State.takeEvent (s : State) : Option (PortEvent × State) :=
  match s.port with
  | [] => none
  | e :: rest => some (e, { s with port := rest })

end Sys2Proof.Machine
end

