-- ==== Sys2Proof/Machine/Operands.lean ====
section
/-!
DEFINITION. The operand forms of the commands: the views of the register file (10_state.md R23), most significant word at
the lowest register number (20_memory.md R52), and the fields of CRC_CFG and CRC_OUT (30_encoding.md R74, R75).
-/

namespace Sys2Proof.Machine

/-- PAYLOAD = x[3] ++ x[4] (R23). -/
def Regs.payload (r : Regs) : Payload := r.payloadHi ++ r.payloadLo

/-- VALUE = x[5] ++ x[6] ++ x[7] ++ x[8] (R23). -/
def Regs.value (r : Regs) : Word64 := r.value3 ++ r.value2 ++ r.value1 ++ r.value0

/-- CRCIN = x[9] ++ x[10] ++ x[11] ++ x[12] (R23). -/
def Regs.crcIn (r : Regs) : Word64 := r.crcIn3 ++ r.crcIn2 ++ r.crcIn1 ++ r.crcIn0

/-- `N = x[13][6:0]` (R75). -/
def Regs.crcLen (r : Regs) : Nat := (r.crcCfg.extractLsb' 0 7).toNat

/-- `P = x[13][12:8]` (R75). -/
def Regs.crcPoly (r : Regs) : Poly := r.crcCfg.extractLsb' 8 5

/-- `x[14][3:0]`, the CRC that PACK packs (R183). -/
def Regs.crcOutNibble (r : Regs) : Nibble := r.crcOut.extractLsb' 0 4

/-- `x[3] <- W[31:16] ; x[4] <- W[15:0]` (R52). -/
def Regs.putPayload (r : Regs) (w : Payload) : Regs :=
  (r.put .payloadHi (w.extractLsb' 16 16)).put .payloadLo (w.extractLsb' 0 16)

/-- `x[5] <- Y[63:48] ; x[6] <- Y[47:32] ; x[7] <- Y[31:16] ; x[8] <- Y[15:0]` (R52). -/
def Regs.putValue (r : Regs) (y : Word64) : Regs :=
  (((r.put .value3 (y.extractLsb' 48 16)).put .value2 (y.extractLsb' 32 16)).put
    .value1 (y.extractLsb' 16 16)).put .value0 (y.extractLsb' 0 16)

/-- `CRC_OUT <- zext_16(c)` (R74). -/
def Regs.putCrcOut (r : Regs) (c : Nibble) : Regs := r.put .crcOut (c.setWidth 16)

/-- `x[0] <- h ; x[1] <- l ; x[2] <- k`: the wire block TRIPLE (R23, R183). -/
def Regs.putTriple (r : Regs) (h l k : Word) : Regs :=
  ((r.put .highWord h).put .lowWord l).put .crcWord k

end Sys2Proof.Machine
end

