-- ==== Sys2Proof/Machine/FloatCodec.lean ====
section
/-!
DEFINITION. The Float↔Bits Codec (41_float_codec.md): the pure functions enc32 and dec32, and the commands ENCODE and
DECODE. The functions are the bit-extraction forms, which R130 declares conforming; the source's iterative algorithms
(R120, R125) stand in FloatReference.lean, and obligations state that the two agree on every input (log entry 8).
-/

namespace Sys2Proof.Machine

/-- `Result = ok(v) | err(code)` of the encoder (00_scope.md R9). -/
inductive EncodeResult where
  | ok (w : Payload)
  | err (c : ResultCode)
  deriving DecidableEq, Repr

/-- enc32: float to payload, by bit extraction (R120, R122, in the form R130 names). The checks stand in R122's order:
NaN or infinity, then ±0, then the range of the biased exponent. -/
def enc32 (x : Word64) : EncodeResult :=
  let e := (x.extractLsb' 52 11).toNat
  if e = 2047 then .err .invalidInput
  else if x.extractLsb' 0 63 = 0#63 then .ok 0x00000000#32
  else if e < 896 ∨ 1151 < e then .err .rangeOverflow
  else .ok (x.extractLsb' 63 1 ++ BitVec.ofNat 8 (e - 896) ++ x.extractLsb' 29 23)

/-- dec32: payload to float, by bit extraction (R125, in the form R130 names). Exponent fields 0 and 255 have no special
meaning (R128). -/
def dec32 (w : Payload) : Word64 :=
  w.extractLsb' 31 1 ++ BitVec.ofNat 11 ((w.extractLsb' 23 8).toNat + 896) ++ w.extractLsb' 0 23 ++ 0#29

/-- ENCODE (R123): `PAYLOAD <- enc32(VALUE)`; on an error only STATUS changes. -/
def execEncode (s : State) : Outcome :=
  match enc32 s.regs.value with
  | .ok w => s.succeed (s.regs.putPayload w)
  | .err c => s.raise c

/-- DECODE (R126): `VALUE <- dec32(PAYLOAD)`; it never fails. -/
def execDecode (s : State) : Outcome :=
  s.succeed (s.regs.putValue (dec32 s.regs.payload))

end Sys2Proof.Machine
end

