-- ==== Sys2Proof/Machine/Crc4.lean ====
section
/-!
DEFINITION. The CRC4 Engine (42_crc4.md): the source's bit-serial XOR division over bit strings (R150), its placement in
the registers (R151), and the CRC4 command (R155). A bit string is a list of characters, the first one first (R8).
-/

namespace Sys2Proof.Machine

/-- XOR the polynomial into the front of a buffer: `buf[j] ^ p[j]` for each character of `p`. -/
def xorFront : List Bool → List Bool → List Bool
  | b :: bs, q :: qs => (b ^^ q) :: xorFront bs qs
  | bs, [] => bs
  | [], _ :: _ => []

/-- XOR the polynomial into the window of the buffer that starts at position `i`: `buf[i+j] ^ p[j]` (R150 step 2). -/
def xorWindow (buf p : List Bool) (i : Nat) : List Bool :=
  buf.take i ++ xorFront (buf.drop i) p

/-- One position of R150's loop: the test reads the buffer as earlier positions left it. -/
def divideStep (p buf : List Bool) (i : Nat) : List Bool :=
  if buf.getD i false then xorWindow buf p i else buf

/-- R150: append 4 zeros, visit the N positions, and return the final 4 characters. -/
def crc4 (d p : List Bool) : List Bool :=
  ((List.range d.length).foldl (divideStep p) (d ++ List.replicate Config.crcAppend false)).drop d.length

/-- `d[i] = D[N-1-i]` for i = 0..N-1: the data string, right-justified in its word (R151). -/
def dataString (d : Word64) (n : Nat) : List Bool :=
  (List.range n).map fun i => d.getLsbD (n - 1 - i)

/-- `p[j] = P[4-j]` for j = 0..4 (R151). -/
def polyString (p : Poly) : List Bool :=
  (List.range 5).map fun j => p.getLsbD (4 - j)

/-- `c[3-k] = r[k]`: the result string as a 4-bit number, first character most significant (R151). -/
def crcNibble (r : List Bool) : Nibble :=
  BitVec.ofNat 4 (r.foldl (fun acc b => 2 * acc + b.toNat) 0)

/-- `crc4w(D, N, P)` (R151): the CRC as a function of words; bits of `d` from `n` up are not read. -/
def crc4w (d : Word64) (n : Nat) (p : Poly) : Nibble :=
  crcNibble (crc4 (dataString d n) (polyString p))

/-- `crc4w(W, 32, 0b10011)`: the wire CRC of a payload (R182, R200). -/
def payloadCrc (w : Payload) : Nibble :=
  crc4w (w.setWidth 64) Config.payloadWidth Config.defaultPoly

/-- CRC4 (R155): `CRC_OUT <- crc4(CRCIN, LEN, POLY)`; INVALID_INPUT when LEN > 64, and then only STATUS changes. -/
def execCrc4 (s : State) : Outcome :=
  if s.regs.crcLen > Config.crcMaxLen then s.raise .invalidInput
  else s.succeed (s.regs.putCrcOut (crc4w s.regs.crcIn s.regs.crcLen s.regs.crcPoly))

end Sys2Proof.Machine
end

