-- ==== Sys2Proof/Machine/RegisterPacker.lean ====
section
/-!
DEFINITION. The Register Packer / Validator (43_register_packer.md): pack, unpack and validate, and the commands PACK and
UNPACK. The word order is high word first, in both directions (R180, R181; 90_conflicts.md C3).
-/

namespace Sys2Proof.Machine

/-- The RegisterTriple `[highWord, lowWord, crcWord]` (00_scope.md R11). -/
structure Triple where
  high : Word
  low : Word
  crc : Word
  deriving DecidableEq, Repr

/-- What validate answers (R182). -/
inductive Validation where
  | ok (c : Nibble)
  | mismatch (c k : Nibble)
  deriving DecidableEq, Repr

/-- `pack(W, c)` (R180): the upper 12 bits of the CRC word are 0. -/
def pack (w : Payload) (c : Nibble) : Triple where
  high := w.extractLsb' 16 16
  low := w.extractLsb' 0 16
  crc := c.setWidth 16

/-- `unpack(H, L, K)` (R181): the payload `H ++ L` and the received CRC `K[3:0]`; `K[15:4]` is ignored. -/
def unpack (t : Triple) : Payload × Nibble :=
  (t.high ++ t.low, t.crc.extractLsb' 0 4)

/-- `validate(W, k)` (R182): recompute the CRC and compare. -/
def validate (w : Payload) (k : Nibble) : Validation :=
  let c := payloadCrc w
  if c = k then .ok c else .mismatch c k

/-- TRIPLE = (x[0], x[1], x[2]) (R23). -/
def Regs.triple (r : Regs) : Triple where
  high := r.highWord
  low := r.lowWord
  crc := r.crcWord

/-- PACK (R183): `TRIPLE <- pack(PAYLOAD, CRC_OUT[3:0])`; it does not check the CRC. -/
def execPack (s : State) : Outcome :=
  let t := pack s.regs.payload s.regs.crcOutNibble
  s.succeed (s.regs.putTriple t.high t.low t.crc)

/-- UNPACK (R184): PAYLOAD and CRC_OUT are written on a match and on a mismatch, then STATUS. -/
def execUnpack (s : State) : Outcome :=
  let (w, k) := unpack s.regs.triple
  let r := (s.regs.putPayload w).putCrcOut k
  match validate w k with
  | .ok c => s.finish (r.report k c .ok)
  | .mismatch c k => s.finish (r.report k c .checksumMismatch)

end Sys2Proof.Machine
end

