-- ==== Sys2Proof/Machine/Pipelines.lean ====
section
/-!
DEFINITION. The compositions (44_pipelines.md): SEND is encode → checksum → pack, RECEIVE is unpack → validate → decode,
each one atomic command that stops at the first error.
-/

namespace Sys2Proof.Machine

/-- SEND (R200): on an encode error only STATUS changes and no CRC is computed (R223). -/
def execSend (s : State) : Outcome :=
  match enc32 s.regs.value with
  | .err e => s.raise e
  | .ok w =>
    let c := payloadCrc w
    let t := pack w c
    s.succeed (((s.regs.putPayload w).putCrcOut c).putTriple t.high t.low t.crc)

/-- RECEIVE (R201): PAYLOAD and CRC_OUT are written in both cases; VALUE only on a match. -/
def execReceive (s : State) : Outcome :=
  let (w, k) := unpack s.regs.triple
  let r := (s.regs.putPayload w).putCrcOut k
  match validate w k with
  | .mismatch c k => s.finish (r.report k c .checksumMismatch)
  | .ok c => s.finish ((r.putValue (dec32 w)).report k c .ok)

end Sys2Proof.Machine
end

