-- ==== Sys2Proof/Machine/HostBus.lean ====
section
/-!
DEFINITION. The host transactions (40_host_bus.md): READ, WRITE, the dispatch of a command write, and ILLEGAL.
-/

namespace Sys2Proof.Machine

/-- READ (R100): return the register to the host; the DATA field is ignored and no register changes. -/
def execRead (a : Word) (s : State) : Outcome :=
  s.respond (readReg s.regs a)

/-- ILLEGAL (R103): STATUS = ILLEGAL_COMMAND with both CRC fields 0, whatever the word; nothing else changes. -/
def execIllegal (_c : Word) (s : State) : Outcome :=
  s.raise .illegalCommand

/-- The dispatch of a WRITE to COMMAND (R102), written from its own pseudocode. -/
def commandWrite (c : Word) (s : State) : Outcome :=
  if zeroField c ≠ 0#12 then execIllegal c s
  else
    match (opcField c).toNat with
    | 1 => execEncode s
    | 2 => execDecode s
    | 3 => execCrc4 s
    | 4 => execPack s
    | 5 => execUnpack s
    | 6 => execSend s
    | 7 => execReceive s
    | _ => execIllegal c s

/-- WRITE (R101). A term `.write 16 c` is no row of the table, and the decoder never gives it (R71); it means what a WRITE
to COMMAND means, the dispatch of R102 (log entry 7). -/
def execWrite (a d : Word) (s : State) : Outcome :=
  if a = Config.commandAddr then commandWrite d s
  else s.finish (writeReg s.regs a d)

end Sys2Proof.Machine
end

