-- ==== Sys2Proof/Machine/Step.lean ====
section
/-!
DEFINITION. One step of the block: the next event of the port is performed to its end (20_memory.md R60). The block has no
program counter and fetches nothing (10_state.md R21): what runs next is what the host issues next.
-/

namespace Sys2Proof.Machine

/-- Perform the port's next event: a transaction (R70) or reset (R250). While the host issues nothing the block keeps all
its state (60_exceptions.md R233; log entry 3). -/
def step (s : State) : Host.Outcome State Fault Refusal :=
  match s.takeEvent with
  | none => .next s
  | some (.reset, s) => .next s.applyReset
  | some (.transaction t, s) => exec (decode t) s

/-- The host issues a transaction next: it stands before whatever else waits at the port. -/
def State.issueNext (s : State) (t : Transaction) : State :=
  { s with port := .transaction t :: s.port }

/-- The state in which the very next step runs the instruction of a table row whose bits are `w` (log entries 1 and 6). -/
def State.withFetchWord (s : State) (nbits w : Nat) : State :=
  match tableTransaction nbits w with
  | .ok t => s.issueNext t
  | .error _ => s

end Sys2Proof.Machine
end

