-- ==== Sys2Proof/Machine/FloatReference.lean ====
section
/-!
DEFINITION. The codec as 41_float_codec.md R120 and R125 write it, over exact rationals: what ENCODE and DECODE are
measured against. The machine runs the bit-extraction forms of FloatCodec.lean; nothing here is run by a step.
-/

namespace Sys2Proof.Machine

/-- `value64(X)` (00_scope.md R10): the real number a binary64 word encodes, always a rational; none for infinity and NaN. -/
def value64 (x : Word64) : Option ℚ :=
  let sgn : ℚ := if x.getLsbD 63 then -1 else 1
  let e := (x.extractLsb' 52 11).toNat
  let f := ((x.extractLsb' 0 52).toNat : ℚ)
  if e = 2047 then none
  else if e = 0 then some (sgn * (f / 2 ^ 52) * (2 : ℚ) ^ (-1022 : ℤ))
  else some (sgn * (1 + f / 2 ^ 52) * (2 : ℚ) ^ ((e : ℤ) - 1023))

/-- R120 step 2, first loop: halve while `m >= 2.0`, counting up. None when the fuel runs out. -/
def halveLoop : Nat → ℚ → ℤ → Option (ℚ × ℤ)
  | 0, _, _ => none
  | fuel + 1, m, e => if m ≥ 2 then halveLoop fuel (m / 2) (e + 1) else some (m, e)

/-- R120 step 2, second loop: double while `m < 1.0`, counting down. None when the fuel runs out. -/
def doubleLoop : Nat → ℚ → ℤ → Option (ℚ × ℤ)
  | 0, _, _ => none
  | fuel + 1, m, e => if m < 1 then doubleLoop fuel (m * 2) (e - 1) else some (m, e)

/-- R120 step 4: `f = f * 2 ; t = floor(f) ; f = f - t ; M = (M << 1) | t`, repeated. -/
def mantissaLoop : Nat → ℚ → Nat → Nat
  | 0, _, m => m
  | n + 1, f, m => mantissaLoop n (f * 2 - ⌊f * 2⌋) (2 * m + ⌊f * 2⌋.toNat)

/-- More turns than either loop of step 2 takes on a binary64 value: at most 1074 (70_reset_and_hazards.md R258). -/
def loopFuel : Nat := 2048

/-- R120, step by step. None only if a loop ran out of fuel, which never happens. -/
def enc32Literal (x : Word64) : Option EncodeResult :=
  match value64 x with
  | none => some (.err .invalidInput)
  | some v =>
    if x.extractLsb' 0 63 = 0#63 then some (.ok 0x00000000#32)
    else
      match halveLoop loopFuel |v| 0 with
      | none => none
      | some (m, e) =>
        match doubleLoop loopFuel m e with
        | none => none
        | some (m, e) =>
          let b := e + 127
          if b < 0 ∨ b > 255 then some (.err .rangeOverflow)
          else
            let s := if v < 0 then 1 else 0
            some (.ok (BitVec.ofNat 32 (s * 2 ^ 31 + b.toNat * 2 ^ 23 + mantissaLoop 23 (m - 1) 0)))

/-- R125: `v = sgn · mant · 2^u`, the exact real a payload stands for. -/
def payloadValue (w : Payload) : ℚ :=
  let sgn : ℚ := if w.getLsbD 31 then -1 else 1
  let u : ℤ := ((w.extractLsb' 23 8).toNat : ℤ) - 127
  let mant : ℚ := 1 + ∑ i ∈ Finset.Icc 1 23, if w.getLsbD (23 - i) then (2 : ℚ) ^ (-(i : ℤ)) else 0
  sgn * mant * (2 : ℚ) ^ u

end Sys2Proof.Machine
end

