-- ==== Sys2Proof/Safety.lean ====
section
/-!
DEFINITION. What counts as a safe run, in the terms the claims use: the invariant of the registers, completion, and the
frame of a transaction.
-/

namespace Sys2Proof.Machine

/-- The reserved bits of CRC_CFG, CRC_OUT and STATUS are 0 (10_state.md R30 to R32, R36). -/
abbrev Regs.ReservedClear (r : Regs) : Prop :=
  r.crcCfg &&& 0xE080#16 = 0#16 ∧ r.crcOut &&& 0xFFF0#16 = 0#16 ∧ r.status &&& 0xF008#16 = 0#16

/-- STATUS holds a code of R220 with what R220 records beside it: after OK the two CRCs are equal, after
CHECKSUM_MISMATCH they differ, after any other code both are 0. Codes 5 to 7 are never written. -/
abbrev StatusCoherent (st : Word) : Prop :=
  (statusCode st).toNat ≤ 4 ∧
  (statusCode st = 0#3 → statusCalc st = statusRecv st) ∧
  (statusCode st = 2#3 → statusCalc st ≠ statusRecv st) ∧
  (statusCode st ≠ 0#3 → statusCode st ≠ 2#3 → statusCalc st = 0#4 ∧ statusRecv st = 0#4)

/-- The invariant of the block. -/
abbrev State.Inv (s : State) : Prop := s.regs.ReservedClear ∧ StatusCoherent s.regs.status

/-- The transaction runs to a next state: neither a fault nor a refusal. -/
def Completes (i : Instr) (s : State) : Prop := ∃ t, exec i s = .next t

/-- The frame of a transaction: outside the registers of `written`, every register holds what it held, every register
number of the whole register space reads as it read (R50, R51), and the events to come are the same. -/
def SameExcept (written : List Reg) (s t : State) : Prop :=
  (∀ g, g ∉ written → t.regs.get g = s.regs.get g) ∧
  (∀ a : Word, (∀ g ∈ written, g.number ≠ a) → readReg t.regs a = readReg s.regs a) ∧
  t.port = s.port

end Sys2Proof.Machine
end

