-- ==== Sys2Proof/Certificates/Slice0/Obligations.lean ====
section
/-!
DEFINITION. The statements for the provers. The first section holds the words they use; each statement's docstring says
which rule of spec/ it formalises, or which of the spec's own inferences, or which choice of the model.
-/

open Sys2Proof Sys2Proof.Machine

namespace Sys2Proof.Claims

/-- A step whose port begins with this 33-bit word performs exactly this instruction, with the event taken off the port. -/
def RunsAs (w : Transaction) (i : Instr) : Prop :=
  ∀ s rest, s.port = .transaction w :: rest → step s = exec i { s with port := rest }

/-- The transaction that writes `c` to register 16, from the field table of 30_encoding.md R70. -/
def writeToCommand (c : Word) : Transaction := BitVec.ofNat 33 (1 * 2 ^ 32 + 16 * 2 ^ 16 + c.toNat)

/-- The store masks of the registers the host may write, as 10_state.md R36 lists them. -/
def hostMask (a : Nat) : Word := if a = 13 then 0x1F7F#16 else if a = 14 then 0x000F#16 else 0xFFFF#16

/-- Register by register what a READ returns (40_host_bus.md R100, 20_memory.md R51). -/
def hostView (r : Regs) : Nat → Word
  | 0 => r.highWord
  | 1 => r.lowWord
  | 2 => r.crcWord
  | 3 => r.payloadHi
  | 4 => r.payloadLo
  | 5 => r.value3
  | 6 => r.value2
  | 7 => r.value1
  | 8 => r.value0
  | 9 => r.crcIn3
  | 10 => r.crcIn2
  | 11 => r.crcIn1
  | 12 => r.crcIn0
  | 13 => r.crcCfg &&& 0x1F7F#16
  | 14 => r.crcOut &&& 0x000F#16
  | 15 => r.status &&& 0x0FF7#16
  | _ => 0x0000#16

/-- VALUE is infinite or a NaN (00_scope.md R10). -/
def NotFinite (x : Word64) : Prop := x.extractLsb' 52 11 = 2047#11

/-- VALUE is +0.0 or -0.0. -/
def IsZero (x : Word64) : Prop := x.extractLsb' 0 63 = 0#63

/-- The real a binary64 word encodes is not zero and its biased exponent lies outside 0..255: its magnitude is at least
2^129 or below 2^-127 (41_float_codec.md R122). -/
def OutOfRange (x : Word64) : Prop :=
  ∃ v, value64 x = some v ∧ v ≠ 0 ∧ ((2 : ℚ) ^ 129 ≤ |v| ∨ |v| < (2 : ℚ) ^ (-127 : ℤ))

/-- The working buffer of 42_crc4.md R150 after `i` positions: character `k` of it. -/
def divisionBuffer (n : Nat) (d p : Nat → Bool) : Nat → Nat → Bool
  | 0, k => if k < n then d k else false
  | i + 1, k =>
    if divisionBuffer n d p i i = true ∧ i ≤ k ∧ k ≤ i + 4 then
      (divisionBuffer n d p i k ^^ p (k - i))
    else divisionBuffer n d p i k

/-- The 4-bit shift register of 42_crc4.md section 2, run over the data bits, first data bit first. -/
def shiftRegister (d : Word64) (n : Nat) (p : Poly) : Nibble :=
  (List.range n).foldl
    (fun r i =>
      let fb := d.getLsbD (n - 1 - i) ^^ r.getLsbD 3
      (r <<< 1) ^^^ (if fb then p.extractLsb' 0 4 else 0#4))
    0#4

/-- The polynomial over GF(2) that a bit string stands for, first character the highest power. -/
noncomputable def bitsPoly (bs : List Bool) : Polynomial (ZMod 2) :=
  bs.foldl (fun acc b => acc * Polynomial.X + Polynomial.C (if b then 1 else 0)) 0

/-- A CRC as the bit string it stands for, first character most significant. -/
def nibbleString (c : Nibble) : List Bool := [c.getLsbD 3, c.getLsbD 2, c.getLsbD 1, c.getLsbD 0]

/-- The syndrome table of 42_crc4.md section 4: what flipping payload bit k does to the CRC. -/
def syndrome : List Nibble :=
  [3, 6, 12, 11, 5, 10, 7, 14, 15, 13, 9, 1, 2, 4, 8, 3, 6, 12, 11, 5, 10, 7, 14, 15, 13, 9, 1, 2, 4, 8, 3, 6]

/-- The wire block says: this payload, this CRC in bits 3:0 of the third word. -/
def Carries (s : State) (w : Payload) (k : Nibble) : Prop :=
  s.regs.highWord ++ s.regs.lowWord = w ∧ s.regs.crcWord.extractLsb' 0 4 = k

/-- The command ends with this STATUS word and nothing returned to the host. -/
def Ends (t : State) (st : Word) : Prop := t.regs.status = st ∧ t.readData = none

/-- The operand registers of each command (the table of 30_encoding.md section 3). -/
def operands : Instr → List Reg
  | .encode => [.value3, .value2, .value1, .value0]
  | .decode => [.payloadHi, .payloadLo]
  | .crc4 => [.crcIn3, .crcIn2, .crcIn1, .crcIn0, .crcCfg]
  | .pack => [.payloadHi, .payloadLo, .crcOut]
  | .unpack => [.highWord, .lowWord, .crcWord]
  | .send => [.value3, .value2, .value1, .value0]
  | .receive => [.highWord, .lowWord, .crcWord]
  | .illegal _ => []
  | .read _ _ => []
  | .write _ _ => []

/-- The result registers of each command, STATUS last (the table of 30_encoding.md section 3). -/
def results : Instr → List Reg
  | .encode => [.payloadHi, .payloadLo, .status]
  | .decode => [.value3, .value2, .value1, .value0, .status]
  | .crc4 => [.crcOut, .status]
  | .pack => [.highWord, .lowWord, .crcWord, .status]
  | .unpack => [.payloadHi, .payloadLo, .crcOut, .status]
  | .send => [.payloadHi, .payloadLo, .crcOut, .highWord, .lowWord, .crcWord, .status]
  | .receive => [.payloadHi, .payloadLo, .crcOut, .value3, .value2, .value1, .value0, .status]
  | .illegal _ => [.status]
  | .read _ _ => []
  | .write _ _ => []

/-- Perform instructions one after another; none if one of them stops. -/
def execAll : List Instr → State → Option State
  | [], s => some s
  | i :: is, s =>
    match exec i s with
    | .next t => execAll is t
    | .fault _ => none
    | .refused _ => none

end Sys2Proof.Claims

open Sys2Proof.Claims

/-! ### Transactions, decoding, the step -/

/-- The step performs the transaction the host issues next, decoded; and `withFetchWord` issues a table row's word so
that the very next step performs it. The port is the model's own (log entries 1 and 6). -/
def Obligations.StepRunsIssuedTransaction : Prop :=
  (∀ s t rest, s.port = .transaction t :: rest → step s = exec (decode t) { s with port := rest }) ∧
  (∀ (s : State) nbits w t, tableTransaction nbits w = .ok t → step (s.withFetchWord nbits w) = exec (decode t) s)

/-- While the host issues nothing, a step changes nothing (the model's choice, log entry 3). -/
def Obligations.IdleStepKeepsState : Prop := ∀ s, s.port = [] → step s = .next s

/-- Every event is performed in issue order, one a step: a step takes exactly the first event off the port, and a run of
as many steps as there are events performs them all. The port is the model's own (log entry 1). -/
def Obligations.EventsPerformedInIssueOrder : Prop :=
  (∀ s e rest, s.port = e :: rest → ∃ t, step s = .next t ∧ t.port = rest) ∧
  (∀ s : State, ∃ t, Host.Core.run Sys2Proof.core s.port.length s = .next t ∧ t.port = [])

/-- No transaction and no step stops: every instruction of the table, whatever its operands and the state, answers a next
state, and so does every step. -/
def Obligations.EveryTransactionCompletes : Prop :=
  (∀ i s, Completes i s) ∧ (∀ s, ∃ t, step s = .next t)

/-- R71 and R72: which transaction is a READ, a WRITE and a command write, with the fields cut out of the 33-bit number;
a command word is decoded by ZERO and OPC. Every 33-bit word is covered. -/
def Obligations.DecodeFollowsTheFieldTables : Prop :=
  (∀ a d : Word, decode (BitVec.ofNat 33 (a.toNat * 2 ^ 16 + d.toNat)) = .read a d) ∧
  (∀ a d : Word, a ≠ 16#16 → decode (BitVec.ofNat 33 (2 ^ 32 + a.toNat * 2 ^ 16 + d.toNat)) = .write a d) ∧
  (∀ c : Word, decode (writeToCommand c) = decodeCommand c) ∧
  (∀ c : Word, c.extractLsb' 4 12 ≠ 0#12 → decodeCommand c = .illegal c) ∧
  (∀ c : Word, c.extractLsb' 4 12 = 0#12 → c.toNat < 16 ∧
    [Instr.illegal c, .encode, .decode, .crc4, .pack, .unpack, .send, .receive].getD c.toNat (.illegal c) = decodeCommand c) ∧
  (∀ t : Transaction, ∃ (wr : Bool) (a d : Word), t.toNat = wr.toNat * 2 ^ 32 + a.toNat * 2 ^ 16 + d.toNat)

/-- No bit of an instruction is lost: decoding the encoded instruction gives it back, for every well-formed instruction. -/
def Obligations.DecodeOfEncode : Prop := ∀ i : Instr, i.wf = true → decode (encode i) = i

/-- No bit of a transaction is lost: every 33-bit word decodes to a well-formed instruction, which encodes to it. -/
def Obligations.EncodeOfDecode : Prop := ∀ t : Transaction, (decode t).wf = true ∧ encode (decode t) = t

/-- Words written out from the field tables decode to the instructions they stand for (95_test_vectors.md, sections 2 and 3). -/
def Obligations.SampleWordsDecode : Prop :=
  decode 0x0000D5555#33 = .read 0x000D#16 0x5555#16 ∧
  decode 0x1000EABCD#33 = .write 0x000E#16 0xABCD#16 ∧
  decode 0x100100001#33 = .encode ∧ decode 0x100100002#33 = .decode ∧ decode 0x100100003#33 = .crc4 ∧
  decode 0x100100004#33 = .pack ∧ decode 0x100100005#33 = .unpack ∧ decode 0x100100006#33 = .send ∧
  decode 0x100100007#33 = .receive ∧ decode 0x100100011#33 = .illegal 0x0011#16

/-! ### Reset and the invariant -/

/-- R37 and R250: the reset event sets every register to its reset value in one step, in whatever state it comes, and the
state after reset has those values. -/
def Obligations.ResetSetsEveryRegister : Prop :=
  (∀ s rest, s.port = .reset :: rest → ∃ t, step s = .next t ∧ t.port = rest ∧ t.regs = State.reset.regs) ∧
  (∀ g : Reg, State.reset.regs.get g = if g = .crcCfg then 0x1320#16 else 0x0000#16) ∧
  (∀ a : Word, readReg State.reset.regs a = if a = 13#16 then 0x1320#16 else 0x0000#16) ∧
  State.reset.regs.crcLen = 32 ∧ State.reset.regs.crcPoly = 0b10011#5

/-- The invariant holds after reset. -/
def Obligations.ResetStateMeetsTheInvariant : Prop := State.reset.Inv

/-- Every step keeps the reserved bits 0 and STATUS coherent: a code 0 to 4, with equal CRCs after OK, different CRCs after
CHECKSUM_MISMATCH and no CRCs after any other code. -/
def Obligations.StepKeepsTheInvariant : Prop := ∀ s t, s.Inv → step s = .next t → t.Inv

/-! ### READ, WRITE, the command write -/

/-- R100: a READ returns the register, with the bits outside its mask 0, and changes no register; COMMAND and the
unimplemented numbers read 0. The field `readData` in which the returned value stands is the model's own (log entry 2). -/
def Obligations.ReadReturnsTheRegister : Prop :=
  (∀ a x : Word, RunsAs (BitVec.ofNat 33 (a.toNat * 2 ^ 16 + x.toNat)) (.read a x)) ∧
  (∀ s a x, exec (.read a x) s = .next { s with readData := some (hostView s.regs a.toNat) }) ∧
  (∀ x, exec (.read 13#16 x) State.reset = .next { State.reset with readData := some 0x1320#16 })

/-- R101: a WRITE to a number other than 16 stores its value under the mask in a register 0 to 14 and has no effect on
STATUS and at the unimplemented numbers; every other register keeps what it holds. -/
def Obligations.WriteStoresUnderTheMask : Prop :=
  (∀ a d : Word, a ≠ 16#16 → RunsAs (BitVec.ofNat 33 (2 ^ 32 + a.toNat * 2 ^ 16 + d.toNat)) (.write a d)) ∧
  (∀ s a d, a ≠ 16#16 → ∃ t, exec (.write a d) s = .next t ∧ t.readData = none ∧ t.port = s.port ∧
    (∀ g : Reg, g.number = a → a.toNat ≤ 14 → t.regs.get g = d &&& hostMask a.toNat) ∧
    (15 ≤ a.toNat → t.regs = s.regs) ∧
    (∀ g : Reg, g.number ≠ a → t.regs.get g = s.regs.get g) ∧
    (∀ b, b ≠ a → readReg t.regs b = readReg s.regs b)) ∧
  (∀ s, ∃ t, exec (.write 13#16 0xFFFF#16) s = .next t ∧ t.regs.crcLen = 127 ∧ t.regs.crcPoly = 0b11111#5) ∧
  (∀ s, ∃ t, exec (.write 13#16 0x1305#16) s = .next t ∧ t.regs.crcLen = 5 ∧ t.regs.crcPoly = 0b10011#5 ∧
    readReg t.regs 13#16 = 0x1305#16)

/-- A READ after a WRITE of the same number returns the value written, under the mask; STATUS as it was; 0 elsewhere. -/
def Obligations.ReadAfterWrite : Prop :=
  ∀ s a d x, a ≠ 16#16 → ∃ t u, exec (.write a d) s = .next t ∧ exec (.read a x) t = .next u ∧
    u.readData = some (if a.toNat ≤ 14 then d &&& hostMask a.toNat
      else if a = 15#16 then s.regs.status &&& 0x0FF7#16 else 0x0000#16)

/-- R57: a READ changes no register, so a second READ returns the same; a WRITE to 0..14 only stores; a WRITE to STATUS or
to an unimplemented number has no effect; a WRITE to COMMAND runs a command, and two of them run it twice, the second on
the first one's results. -/
def Obligations.OnlyCommandWritesHaveSideEffects : Prop :=
  (∀ s a x y, ∃ t u, exec (.read a x) s = .next t ∧ t.regs = s.regs ∧ exec (.read a y) t = .next u ∧
    u.readData = t.readData ∧ u.regs = s.regs) ∧
  (∀ s a d, a.toNat ≤ 14 → ∃ t, exec (.write a d) s = .next t ∧
    (∀ g : Reg, t.regs.get g = if g.number = a then d &&& hostMask a.toNat else s.regs.get g)) ∧
  (∀ s a d, a = 15#16 ∨ 17 ≤ a.toNat → ∃ t, exec (.write a d) s = .next t ∧ t.regs = s.regs) ∧
  (∀ s c rest, s.port = .transaction (writeToCommand c) :: .transaction (writeToCommand c) :: rest → ∃ t u,
    step s = .next t ∧ step t = .next u ∧
    exec (decodeCommand c) { s with port := .transaction (writeToCommand c) :: rest } = .next t ∧
    exec (decodeCommand c) { t with port := rest } = .next u)

/-- The dispatch, and the term `.write 16 c` beside it. The transaction that writes `c` to COMMAND runs the instruction that
R102's dispatch names, and every command writes STATUS. Clause 2 and the example are about the ill-formed term `.write 16 c`,
to which no transaction decodes: that it means the dispatch is the model's choice, log entry 7. The last clause compares
the tables `operands` and `results` with each other and says nothing of exec. R102 itself, through the transaction alone, is
CommandWriteRunsItsCommand. -/
def Obligations.CommandWriteDispatch : Prop :=
  (∀ c : Word, RunsAs (writeToCommand c)
    (if c.extractLsb' 4 12 ≠ 0#12 then .illegal c
     else match (c.extractLsb' 0 4).toNat with
      | 1 => .encode
      | 2 => .decode
      | 3 => .crc4
      | 4 => .pack
      | 5 => .unpack
      | 6 => .send
      | 7 => .receive
      | _ => .illegal c)) ∧
  (∀ c s, exec (.write 16#16 c) s = exec (decodeCommand c) s) ∧
  (∀ c s, ∃ t recv computed code, exec (decodeCommand c) s = .next t ∧ t.readData = none ∧ t.port = s.port ∧
    t.regs.status = statusWord recv computed code) ∧
  (∀ s, s.regs.payload = 0x40B80000#32 → ∃ t, exec (.write 16#16 0x0002#16) s = .next t ∧
    t.regs.value = 0x4017000000000000#64 ∧ t.regs.status = 0x0000#16) ∧
  (∀ c, ∀ g ∈ operands (decodeCommand c), g ∉ results (decodeCommand c))

/-- R103: an illegal command word (0x0000, 0x0008 to 0x000F, or bits 15:4 ≠ 0) sets STATUS to 0x0004 and changes
no other register. -/
def Obligations.IllegalCommandOnlySetsStatus : Prop :=
  (∀ c : Word, c = 0x0000#16 ∨ (0x0008#16 ≤ c ∧ c ≤ 0x000F#16) ∨ c.extractLsb' 4 12 ≠ 0#12 →
    RunsAs (writeToCommand c) (.illegal c)) ∧
  (∀ c s, ∃ t, exec (.illegal c) s = .next t ∧ Ends t 0x0004#16 ∧ SameExcept [.status] s t)

/-! ### ENCODE and DECODE -/

/-- R120 and R123: ENCODE writes to PAYLOAD what the source's algorithm, step by step over exact rationals, makes of
VALUE, with OK; on an error only STATUS changes. -/
def Obligations.EncodeRunsTheSourceAlgorithm : Prop :=
  RunsAs 0x100100001#33 .encode ∧
  (∀ s, ∃ t res, enc32Literal s.regs.value = some res ∧ exec .encode s = .next t ∧
    (∀ w, res = .ok w → t.regs.payload = w ∧ Ends t 0x0000#16 ∧ SameExcept [.payloadHi, .payloadLo, .status] s t) ∧
    (∀ c, res = .err c → (c = .invalidInput ∧ Ends t 0x0001#16 ∨ c = .rangeOverflow ∧ Ends t 0x0003#16) ∧
      SameExcept [.status] s t) ∧
    (s.regs.value = 0x0000000000000000#64 → t.regs.payload = 0x00000000#32 ∧ t.regs.status = 0x0000#16) ∧
    (s.regs.value = 0x8000000000000000#64 → t.regs.payload = 0x00000000#32 ∧ t.regs.status = 0x0000#16) ∧
    (s.regs.value = 0x3800000000000000#64 → t.regs.payload = 0x00000000#32 ∧ t.regs.status = 0x0000#16) ∧
    (s.regs.value = 0x47F0000000000000#64 → t.regs.payload = 0x7F800000#32 ∧ t.regs.status = 0x0000#16) ∧
    (s.regs.value = 0x3FB999999999999A#64 → t.regs.payload = 0x3DCCCCCC#32 ∧ t.regs.status = 0x0000#16) ∧
    (s.regs.value = 0x4017000000000000#64 → t.regs.payload = 0x40B80000#32 ∧ t.regs.status = 0x0000#16))

/-- R122: the encoder's checks in their order, the range being that of the real number: NaN and infinity are
INVALID_INPUT, ±0.0 encodes to 0, a magnitude of at least 2^129 or below 2^-127 is RANGE_OVERFLOW, and everything else
encodes. There is no fifth outcome. -/
def Obligations.EncoderChecksInOrder : Prop :=
  ∀ s, ∃ t, exec .encode s = .next t ∧
    (NotFinite s.regs.value → t.regs.status = 0x0001#16) ∧
    (IsZero s.regs.value → t.regs.payload = 0x00000000#32 ∧ t.regs.status = 0x0000#16) ∧
    (OutOfRange s.regs.value → t.regs.status = 0x0003#16) ∧
    (¬ NotFinite s.regs.value → ¬ IsZero s.regs.value → ¬ OutOfRange s.regs.value →
      t.regs.status = 0x0000#16 ∧ enc32Literal s.regs.value = some (.ok t.regs.payload))

/-- The closed form the machine runs equals the source's iterative algorithm on every 64-bit word (the spec's own
inference in 41_float_codec.md section 1; log entry 8). -/
def Obligations.EncoderClosedFormIsTheAlgorithm : Prop := ∀ x : Word64, enc32Literal x = some (enc32 x)

/-- R125 and R126: DECODE writes to VALUE the one binary64 word whose value is the exact real that the payload's sign,
exponent field and mantissa bits make, for every payload, with OK. -/
def Obligations.DecodeGivesTheExactReal : Prop :=
  RunsAs 0x100100002#33 .decode ∧
  (∀ s, ∃ t, exec .decode s = .next t ∧ Ends t 0x0000#16 ∧
    SameExcept [.value3, .value2, .value1, .value0, .status] s t ∧
    value64 t.regs.value = some (payloadValue s.regs.payload) ∧
    (∀ y, value64 y = some (payloadValue s.regs.payload) → y = t.regs.value) ∧
    (s.regs.payload = 0x00000000#32 → t.regs.value = 0x3800000000000000#64) ∧
    (s.regs.payload = 0x80000000#32 → t.regs.value = 0xB800000000000000#64) ∧
    (s.regs.payload = 0x7F800000#32 → t.regs.value = 0x47F0000000000000#64) ∧
    (s.regs.payload = 0x7FC00000#32 → t.regs.value = 0x47F8000000000000#64) ∧
    (s.regs.payload = 0xFFFFFFFF#32 → t.regs.value = 0xC7FFFFFFE0000000#64) ∧
    (s.regs.payload = 0x40B80000#32 → t.regs.value = 0x4017000000000000#64))

/-- DECODE then ENCODE gives the payload back; ENCODE then DECODE clears the low 29 fraction bits of a VALUE that is not
±0.0, and turns ±0.0 into 2^-127 (the spec's own inference in 41_float_codec.md section 6). -/
def Obligations.CodecRoundTrips : Prop :=
  (∀ s, ∃ t u, exec .decode s = .next t ∧ exec .encode t = .next u ∧ u.regs.payload = s.regs.payload ∧
    u.regs.status = 0x0000#16) ∧
  (∀ s t, exec .encode s = .next t → t.regs.status = 0x0000#16 → ∃ u, exec .decode t = .next u ∧
    (¬ IsZero s.regs.value → u.regs.value = s.regs.value &&& 0xFFFFFFFFE0000000#64) ∧
    (IsZero s.regs.value → u.regs.value = 0x3800000000000000#64))

/-- Encoding truncates toward zero: the payload's value is the input's magnitude cut to 23 fraction bits, with its sign;
the loss is below 2^-23 of the input (the spec's own inference in 41_float_codec.md section 3). -/
def Obligations.EncodingTruncatesTowardZero : Prop :=
  ∀ (x : Word64) (w : Payload) (v : ℚ) (e : ℤ), enc32 x = .ok w → ¬ IsZero x → value64 x = some v →
    (2 : ℚ) ^ e ≤ |v| → |v| < (2 : ℚ) ^ (e + 1) →
    payloadValue w = (if v < 0 then -1 else 1) * (⌊|v| * (2 : ℚ) ^ (23 - e)⌋ : ℚ) * (2 : ℚ) ^ (e - 23) ∧
    |payloadValue w| ≤ |v| ∧ |v| - |payloadValue w| < (2 : ℚ) ^ (-23 : ℤ) * |v|

/-- A value with at most 24 significant bits and a magnitude in [2^-127, 2^129) is encoded exactly (the spec's own
inference in 41_float_codec.md section 3). -/
def Obligations.RepresentableValuesEncodeExactly : Prop :=
  ∀ (x : Word64) (v : ℚ) (m k : ℤ), value64 x = some v → v = m * (2 : ℚ) ^ k → |m| < 2 ^ 24 →
    (2 : ℚ) ^ (-127 : ℤ) ≤ |v| → |v| < (2 : ℚ) ^ 129 → ∃ w, enc32 x = .ok w ∧ payloadValue w = v

/-! ### CRC4 -/

/-- R150, R151 and R155: CRC4 writes to CRC_OUT the last four characters of the working buffer after the division of the
data string by the polynomial string, both cut out of CRCIN and CRC_CFG; LEN > 64 is INVALID_INPUT and changes only
STATUS. -/
def Obligations.Crc4DividesBitByBit : Prop :=
  RunsAs 0x100100003#33 .crc4 ∧
  (∀ s, s.regs.crcCfg.toNat % 128 > 64 → ∃ t, exec .crc4 s = .next t ∧ Ends t 0x0001#16 ∧ SameExcept [.status] s t) ∧
  (∀ s n, n = s.regs.crcCfg.toNat % 128 → n ≤ 64 → ∃ t, exec .crc4 s = .next t ∧ Ends t 0x0000#16 ∧
    SameExcept [.crcOut, .status] s t ∧ t.regs.crcOut.toNat < 16 ∧
    (∀ k, k < 4 → t.regs.crcOut.getLsbD (3 - k) =
      divisionBuffer n (fun i => s.regs.crcIn.getLsbD (n - 1 - i)) (fun j => s.regs.crcCfg.getLsbD (12 - j)) n (n + k))) ∧
  (∀ d p : List Bool, p.length = 5 → crc4 d p = (List.range 4).map fun k =>
    divisionBuffer d.length (fun i => d.getD i false) (fun j => p.getD j false) d.length (d.length + k)) ∧
  (∀ s, s.regs.crcCfg = 0x1305#16 → s.regs.crcIn = 0x0000000000000013#64 → ∃ t, exec .crc4 s = .next t ∧
    t.regs.crcOut = 0x0000#16)

/-- The division equals a 4-bit shift register, for every length, data and polynomial (the spec's own inference in
42_crc4.md section 2). -/
def Obligations.CrcIsAShiftRegister : Prop := ∀ (d : Word64) (n : Nat) (p : Poly), crc4w d n p = shiftRegister d n p

/-- The polynomial's first character does not affect the result, and the polynomials 00000 and 10000 give 0 (the spec's
own inferences in 42_crc4.md sections 2 and 3). -/
def Obligations.FirstPolynomialCharacterIgnored : Prop :=
  (∀ (d : Word64) (n : Nat) (p : Poly), crc4w d n (p ^^^ 0b10000#5) = crc4w d n p) ∧
  (∀ (d : Word64) (n : Nat), crc4w d n 0b00000#5 = 0#4 ∧ crc4w d n 0b10000#5 = 0#4)

/-- When p[0] = 1 the CRC is the remainder of D(x)·x^4 divided by P(x) over GF(2) (the spec's own inference, from general
knowledge, in 42_crc4.md section 2). -/
def Obligations.CrcIsThePolynomialRemainder : Prop :=
  ∀ (d : Word64) (n : Nat) (p : Poly), p.getLsbD 4 = true →
    bitsPoly (nibbleString (crc4w d n p)) = (bitsPoly (dataString d n) * Polynomial.X ^ 4) %ₘ bitsPoly (polyString p)

/-- With the default polynomial, flipping any one data bit changes the CRC, at every length; on the 32-bit payload it
changes it by the syndrome table, which holds no 0 (the spec's own inference in 42_crc4.md section 4). -/
def Obligations.SingleBitErrorsChangeTheCrc : Prop :=
  (∀ (d : Word64) (n k : Nat), n ≤ 64 → k < n → crc4w (d ^^^ (1#64 <<< k)) n 0b10011#5 ≠ crc4w d n 0b10011#5) ∧
  (∀ (w : Payload) (k : Nat), k < 32 → payloadCrc (w ^^^ (1#32 <<< k)) = payloadCrc w ^^^ syndrome.getD k 0#4) ∧
  0#4 ∉ syndrome

/-- The CRC is linear in the data and 0 on zero data, and an error in two payload bits 15 apart is not detected (the
spec's own inference in 42_crc4.md section 4). -/
def Obligations.CrcIsLinearInTheData : Prop :=
  (∀ (d e : Word64) (n : Nat) (p : Poly), crc4w (d ^^^ e) n p = crc4w d n p ^^^ crc4w e n p) ∧
  (∀ (n : Nat) (p : Poly), crc4w 0#64 n p = 0#4) ∧
  (∀ (w : Payload) (k : Nat), k + 15 < 32 → payloadCrc (w ^^^ (1#32 <<< k) ^^^ (1#32 <<< (k + 15))) = payloadCrc w)

/-! ### PACK and UNPACK -/

/-- R180 and R183: PACK splits PAYLOAD into the first two words of the wire block and puts CRC_OUT[3:0] in the third, its
upper 12 bits 0, without checking it. -/
def Obligations.PackFillsTheWireBlock : Prop :=
  RunsAs 0x100100004#33 .pack ∧
  (∀ s, ∃ t, exec .pack s = .next t ∧ Ends t 0x0000#16 ∧
    SameExcept [.highWord, .lowWord, .crcWord, .status] s t ∧
    t.regs.highWord = s.regs.payload.extractLsb' 16 16 ∧ t.regs.lowWord = s.regs.payload.extractLsb' 0 16 ∧
    t.regs.crcWord.toNat = s.regs.crcOut.toNat % 16) ∧
  (∃ t, exec .pack State.reset = .next t ∧ Carries t 0x00000000#32 0x0#4 ∧ payloadCrc 0x00000000#32 = 0x0#4) ∧
  (∀ s, s.regs.payload = 0x40B80000#32 → s.regs.crcOut = 0x0004#16 → ∃ t, exec .pack s = .next t ∧
    t.regs.highWord = 0x40B8#16 ∧ t.regs.lowWord = 0x0000#16 ∧ t.regs.crcWord = 0x0004#16)

/-- R181, R182 and R184: UNPACK rebuilds the payload, keeps the received CRC in CRC_OUT, and reports in STATUS both CRCs
with OK if they are equal and CHECKSUM_MISMATCH if not; CRC_WORD[15:4] has no effect and VALUE is never written. -/
def Obligations.UnpackValidatesTheWireBlock : Prop :=
  RunsAs 0x100100005#33 .unpack ∧
  (∀ (s : State) (w : Payload) (k c : Nibble), w = s.regs.highWord ++ s.regs.lowWord → k.toNat = s.regs.crcWord.toNat % 16 →
    c = crc4w (w.setWidth 64) 32 0b10011#5 → ∃ t, exec .unpack s = .next t ∧ t.readData = none ∧
      SameExcept [.payloadHi, .payloadLo, .crcOut, .status] s t ∧ t.regs.payload = w ∧
      t.regs.crcOut.toNat = k.toNat ∧
      t.regs.status.toNat = k.toNat * 2 ^ 8 + c.toNat * 2 ^ 4 + (if c = k then 0 else 2)) ∧
  (∀ s, s.regs.highWord = 0x40B8#16 → s.regs.lowWord = 0x0001#16 → s.regs.crcWord = 0x0004#16 →
    ∃ t, exec .unpack s = .next t ∧ t.regs.payload = 0x40B80001#32 ∧ t.regs.crcOut = 0x0004#16 ∧ t.regs.status = 0x0472#16)

/-- Pack and unpack are inverse: PACK then UNPACK gives back payload and CRC, with OK exactly when the CRC is the
payload's; UNPACK then PACK gives the wire block back with CRC_WORD[15:4] cleared (the spec's own inference in
43_register_packer.md section 3). -/
def Obligations.PackAndUnpackAreInverse : Prop :=
  (∀ s, ∃ t u, exec .pack s = .next t ∧ exec .unpack t = .next u ∧ u.regs.payload = s.regs.payload ∧
    u.regs.crcOut = s.regs.crcOut &&& 0x000F#16 ∧
    (statusCode u.regs.status = 0#3 ↔ s.regs.crcOut.extractLsb' 0 4 = payloadCrc s.regs.payload)) ∧
  (∀ s, ∃ t u, exec .unpack s = .next t ∧ exec .pack t = .next u ∧ u.regs.highWord = s.regs.highWord ∧
    u.regs.lowWord = s.regs.lowWord ∧ u.regs.crcWord = s.regs.crcWord &&& 0x000F#16)

/-- Tampering with a wire block that carries a payload and its own CRC: one flipped payload bit or CRC bit is reported as
CHECKSUM_MISMATCH by UNPACK and by RECEIVE, which then keeps VALUE; two payload bits 15 apart are not detected (the spec's
own inferences in 43_register_packer.md section 3 and 44_pipelines.md). -/
def Obligations.TamperingIsDetected : Prop :=
  ∀ (s : State) (w : Payload) (i : Instr), i = .unpack ∨ i = .receive →
    (∀ k, k < 32 → Carries s (w ^^^ (1#32 <<< k)) (payloadCrc w) → ∃ t, exec i s = .next t ∧
      statusCode t.regs.status = 2#3 ∧ t.regs.value = s.regs.value) ∧
    (∀ k, k < 4 → Carries s w (payloadCrc w ^^^ (1#4 <<< k)) → ∃ t, exec i s = .next t ∧
      statusCode t.regs.status = 2#3 ∧ t.regs.value = s.regs.value) ∧
    (∀ k, k + 15 < 32 → Carries s (w ^^^ (1#32 <<< k) ^^^ (1#32 <<< (k + 15))) (payloadCrc w) → ∃ t,
      exec i s = .next t ∧ statusCode t.regs.status = 0#3) ∧
    (Carries s w (payloadCrc w) → ∃ t, exec i s = .next t ∧ statusCode t.regs.status = 0#3)

/-! ### SEND and RECEIVE -/

/-- R200: SEND encodes VALUE, puts the CRC of the payload over 32 bits with the default polynomial in CRC_OUT, and packs
both; on an encode error only STATUS changes. (R200's corner case that SEND is a sequence of its parts, which the spec marks
as derived, is SendIsEncodeThenCrcThenPack.) -/
def Obligations.SendEncodesChecksumsAndPacks : Prop :=
  RunsAs 0x100100006#33 .send ∧
  (∀ s, ∃ t res, enc32Literal s.regs.value = some res ∧ exec .send s = .next t ∧
    (∀ c, res = .err c → (c = .invalidInput ∧ Ends t 0x0001#16 ∨ c = .rangeOverflow ∧ Ends t 0x0003#16) ∧
      SameExcept [.status] s t) ∧
    (∀ w, res = .ok w → Ends t 0x0000#16 ∧ t.regs.payload = w ∧
      t.regs.crcOut.toNat = (crc4w (w.setWidth 64) 32 0b10011#5).toNat ∧
      t.regs.highWord = w.extractLsb' 16 16 ∧ t.regs.lowWord = w.extractLsb' 0 16 ∧ t.regs.crcWord = t.regs.crcOut ∧
      SameExcept [.payloadHi, .payloadLo, .crcOut, .highWord, .lowWord, .crcWord, .status] s t)) ∧
  (∀ s, s.regs.value = 0x4017000000000000#64 → ∃ t, exec .send s = .next t ∧ t.regs.payload = 0x40B80000#32 ∧
    t.regs.crcOut = 0x0004#16 ∧ Carries t 0x40B80000#32 0x4#4 ∧ t.regs.status = 0x0000#16) ∧
  (∀ s, s.regs.value = 0x0000000000000000#64 ∨ s.regs.value = 0x8000000000000000#64 → ∃ t, exec .send s = .next t ∧
    t.regs.highWord = 0x0000#16 ∧ t.regs.lowWord = 0x0000#16 ∧ t.regs.crcWord = 0x0000#16)

/-- SEND leaves, when VALUE encodes, the registers that ENCODE, a host write of the payload's CRC to CRC_OUT, and PACK
leave (the spec's own inference, a corner case of SEND in 44_pipelines.md). -/
def Obligations.SendIsEncodeThenCrcThenPack : Prop :=
  ∀ s t, exec .encode s = .next t → t.regs.status = 0x0000#16 → ∃ u v,
    execAll [.write 14#16 ((payloadCrc t.regs.payload).setWidth 16), .pack] t = some u ∧
    exec .send s = .next v ∧ v.regs = u.regs

/-- R201: RECEIVE rebuilds the payload and validates it; on a match it decodes it into VALUE, on a mismatch it leaves
VALUE; PAYLOAD, CRC_OUT and STATUS, with both CRCs, are written in both cases. -/
def Obligations.ReceiveValidatesThenDecodes : Prop :=
  RunsAs 0x100100007#33 .receive ∧
  (∀ (s : State) (w : Payload) (k c : Nibble), w = s.regs.highWord ++ s.regs.lowWord → k.toNat = s.regs.crcWord.toNat % 16 →
    c = crc4w (w.setWidth 64) 32 0b10011#5 → ∃ t, exec .receive s = .next t ∧ t.readData = none ∧
      t.regs.payload = w ∧ t.regs.crcOut.toNat = k.toNat ∧
      (c ≠ k → t.regs.status.toNat = k.toNat * 2 ^ 8 + c.toNat * 2 ^ 4 + 2 ∧
        SameExcept [.payloadHi, .payloadLo, .crcOut, .status] s t) ∧
      (c = k → t.regs.status.toNat = k.toNat * 2 ^ 8 + c.toNat * 2 ^ 4 ∧
        value64 t.regs.value = some (payloadValue w) ∧
        SameExcept [.payloadHi, .payloadLo, .crcOut, .value3, .value2, .value1, .value0, .status] s t)) ∧
  (∀ s, Carries s 0x40B80000#32 0x4#4 → ∃ t, exec .receive s = .next t ∧ t.regs.payload = 0x40B80000#32 ∧
    t.regs.crcOut = 0x0004#16 ∧ t.regs.value = 0x4017000000000000#64 ∧ t.regs.status = 0x0440#16) ∧
  (∀ s, Carries s 0x00000000#32 0x0#4 → ∃ t, exec .receive s = .next t ∧ t.regs.value = 0x3800000000000000#64 ∧
    statusCode t.regs.status = 0#3)

/-- End to end: what one block SENDs with OK, another one whose wire block carries the same words RECEIVEs with OK: VALUE
with fraction bits 28:0 cleared, or 2^-127 for ±0.0 (the spec's own inference in 44_pipelines.md). -/
def Obligations.SentValuesAreReceived : Prop :=
  ∀ s t r, exec .send s = .next t → t.regs.status = 0x0000#16 → r.regs.triple = t.regs.triple → ∃ u,
    exec .receive r = .next u ∧ statusCode u.regs.status = 0#3 ∧
    (¬ IsZero s.regs.value → u.regs.value = s.regs.value &&& 0xFFFFFFFFE0000000#64) ∧
    (IsZero s.regs.value → u.regs.value = 0x3800000000000000#64)

/-! ### Errors and STATUS, whole-machine rules -/

/-- R221: INVALID_INPUT, RANGE_OVERFLOW and ILLEGAL_COMMAND change only STATUS; CHECKSUM_MISMATCH also writes PAYLOAD with
the reconstructed payload and CRC_OUT with the received CRC, and not VALUE; and the block goes on accepting
transactions.
(That `isCommand` takes in the ill-formed term `.write 16 c` is the model's choice, log entry 7; no transaction decodes to
it.) -/
def Obligations.ErrorsLeaveResultsAlone : Prop :=
  ∀ i s t, i.isCommand = true → exec i s = .next t →
    (statusCode t.regs.status = 1#3 ∨ statusCode t.regs.status = 3#3 ∨ statusCode t.regs.status = 4#3 →
      SameExcept [.status] s t) ∧
    (statusCode t.regs.status = 2#3 →
      SameExcept [.payloadHi, .payloadLo, .crcOut, .status] s t ∧
      t.regs.payload = s.regs.highWord ++ s.regs.lowWord ∧ t.regs.crcOut.toNat = s.regs.crcWord.toNat % 16) ∧
    (∀ j, Completes j t)

/-- R220 and R223: which code each command reports, by the first check that applies, and which CRCs it records; an ENCODE or a
SEND that fails leaves PAYLOAD and CRC_OUT alone. -/
def Obligations.EachCommandReportsOneCode : Prop :=
  (∀ i s, i = .encode ∨ i = .send → ∃ t, exec i s = .next t ∧
    (NotFinite s.regs.value → t.regs.status = 0x0001#16) ∧
    (IsZero s.regs.value → t.regs.status = 0x0000#16) ∧
    (OutOfRange s.regs.value → t.regs.status = 0x0003#16) ∧
    (¬ NotFinite s.regs.value → ¬ IsZero s.regs.value → ¬ OutOfRange s.regs.value → t.regs.status = 0x0000#16) ∧
    (t.regs.status ≠ 0x0000#16 → t.regs.crcOut = s.regs.crcOut ∧ t.regs.payload = s.regs.payload)) ∧
  (∀ s, ∃ t, exec .crc4 s = .next t ∧ t.regs.status = if s.regs.crcCfg.toNat % 128 > 64 then 0x0001#16 else 0x0000#16) ∧
  (∀ i s, i = .unpack ∨ i = .receive → ∃ t, exec i s = .next t ∧
    statusCalc t.regs.status = payloadCrc (s.regs.highWord ++ s.regs.lowWord) ∧
    (statusRecv t.regs.status).toNat = s.regs.crcWord.toNat % 16 ∧
    t.regs.payload = s.regs.highWord ++ s.regs.lowWord ∧ t.regs.crcOut.toNat = s.regs.crcWord.toNat % 16 ∧
    statusCode t.regs.status = if statusCalc t.regs.status = statusRecv t.regs.status then 0#3 else 2#3) ∧
  (∀ i s, i = .decode ∨ i = .pack → ∃ t, exec i s = .next t ∧ t.regs.status = 0x0000#16) ∧
  (∀ c s, ∃ t, exec (.illegal c) s = .next t ∧ t.regs.status = 0x0004#16)

/-- R224: STATUS is not sticky. Every command overwrites all of it, so that nothing a command does depends on what STATUS
held; READ and plain WRITE leave it alone.
(That `isCommand` takes in the ill-formed term `.write 16 c` is the model's choice, log entry 7; no transaction decodes to
it.) -/
def Obligations.StatusIsNotSticky : Prop :=
  (∀ i s v, i.isCommand = true → exec i { s with regs := { s.regs with status := v } } = exec i s) ∧
  (∀ i s t, i.isCommand = false → exec i s = .next t → t.regs.status = s.regs.status)

/-- A command reads only its operand registers and writes only its result registers: two states that agree on the operands
end with the same results, a register written in one being written in the other; everything else stays. -/
def Obligations.CommandsUseOnlyTheirRegisters : Prop :=
  ∀ c s s', ∀ i, i = decodeCommand c → (∀ g ∈ operands i, s.regs.get g = s'.regs.get g) → ∃ t t',
    exec i s = .next t ∧ exec i s' = .next t' ∧ SameExcept (results i) s t ∧ SameExcept (results i) s' t' ∧
    t.regs.status = t'.regs.status ∧
    (∀ g ∈ results i, t.regs.get g = t'.regs.get g ∨ (t.regs.get g = s.regs.get g ∧ t'.regs.get g = s'.regs.get g))

/-- The pseudo-instructions ld64, ld32, ldtriple and crccfg load the views they name, and rd64 reads VALUE back, most
significant word first (30_encoding.md section 5, 20_memory.md section 2). -/
def Obligations.PseudoLoadsSetTheViews : Prop :=
  (∀ s (v : Word64), ∃ t, execAll [.write 5#16 (v.extractLsb' 48 16), .write 6#16 (v.extractLsb' 32 16),
      .write 7#16 (v.extractLsb' 16 16), .write 8#16 (v.extractLsb' 0 16)] s = some t ∧ t.regs.value = v ∧
    SameExcept [.value3, .value2, .value1, .value0] s t ∧
    readReg t.regs 5#16 ++ readReg t.regs 6#16 ++ readReg t.regs 7#16 ++ readReg t.regs 8#16 = v) ∧
  (∀ s (v : Word64), ∃ t, execAll [.write 9#16 (v.extractLsb' 48 16), .write 10#16 (v.extractLsb' 32 16),
      .write 11#16 (v.extractLsb' 16 16), .write 12#16 (v.extractLsb' 0 16)] s = some t ∧ t.regs.crcIn = v ∧
    SameExcept [.crcIn3, .crcIn2, .crcIn1, .crcIn0] s t) ∧
  (∀ s (w : Payload), ∃ t, execAll [.write 3#16 (w.extractLsb' 16 16), .write 4#16 (w.extractLsb' 0 16)] s = some t ∧
    t.regs.payload = w ∧ SameExcept [.payloadHi, .payloadLo] s t) ∧
  (∀ s h l k, ∃ t, execAll [.write 0#16 h, .write 1#16 l, .write 2#16 k] s = some t ∧ t.regs.triple = ⟨h, l, k⟩ ∧
    SameExcept [.highWord, .lowWord, .crcWord] s t) ∧
  (∀ s (n : BitVec 7) (p : Poly), ∃ t, exec (.write 13#16 ((p.setWidth 16 <<< 8) ||| n.setWidth 16)) s = .next t ∧
    t.regs.crcLen = n.toNat ∧ t.regs.crcPoly = p ∧ SameExcept [.crcCfg] s t)

/-! ### The command write, through the transaction -/

/-- R102: the transaction with WR = 1, ADDR = 16 and DATA `c` runs, in one step and on the registers as they stand, the
command that `c` chooses, and that command writes STATUS, whatever it is. Each opcode completes; the rule's example is
stated of the same transaction. The last clause is the rule's corner case that no command writes a register it also reads,
said of the step: where a command changes register `g` in some state, states that differ in `g` alone end with every other
register the same, and with `g` written the same or left alone in both. -/
def Obligations.CommandWriteRunsItsCommand : Prop :=
  (∀ c : Word, RunsAs (writeToCommand c)
    (if c.extractLsb' 4 12 ≠ 0#12 then .illegal c
     else match (c.extractLsb' 0 4).toNat with
      | 1 => .encode
      | 2 => .decode
      | 3 => .crc4
      | 4 => .pack
      | 5 => .unpack
      | 6 => .send
      | 7 => .receive
      | _ => .illegal c)) ∧
  (∀ c s rest, s.port = .transaction (writeToCommand c) :: rest → ∃ t recv computed code, step s = .next t ∧
    t.port = rest ∧ t.readData = none ∧ t.regs.status = statusWord recv computed code) ∧
  (∀ s rest, s.port = .transaction (writeToCommand 0x0002#16) :: rest → s.regs.payload = 0x40B80000#32 →
    ∃ t, step s = .next t ∧ t.regs.value = 0x4017000000000000#64 ∧ t.regs.status = 0x0000#16) ∧
  (∀ c (g : Reg) s₀ t₀ rest₀, s₀.port = .transaction (writeToCommand c) :: rest₀ → step s₀ = .next t₀ →
    t₀.regs.get g ≠ s₀.regs.get g →
    ∀ s s' rest, s.port = .transaction (writeToCommand c) :: rest → s'.port = .transaction (writeToCommand c) :: rest →
      (∀ h : Reg, h ≠ g → s.regs.get h = s'.regs.get h) → ∃ t t', step s = .next t ∧ step s' = .next t' ∧
        (∀ h : Reg, h ≠ g → t.regs.get h = t'.regs.get h) ∧
        (t.regs.get g = t'.regs.get g ∨ (t.regs.get g = s.regs.get g ∧ t'.regs.get g = s'.regs.get g)))
end

