-- ==== Sys2Proof/Laws/Decode.lean ====
section
/-!
SUPPORT. The fields of a transaction and of a command word as numbers, and the words that htWord makes of them: what the
proofs about decoding and encoding cite.
-/

namespace Sys2Proof

/-- A concatenation as a number: the left part is the more significant one (R7). -/
theorem append_toNat {n m : Nat} (x : BitVec n) (y : BitVec m) : (x ++ y).toNat = x.toNat * 2 ^ m + y.toNat := by
  rw [BitVec.toNat_append, ← Nat.shiftLeft_add_eq_or_of_lt y.isLt, Nat.shiftLeft_eq]

theorem htWord_toNat (wr : BitVec 1) (a d : Word) :
    (htWord wr a d).toNat = wr.toNat * 2 ^ 32 + a.toNat * 2 ^ 16 + d.toNat := by
  show (wr ++ a ++ d : BitVec (1 + 16 + 16)).toNat = _
  rw [append_toNat, append_toNat]
  omega

theorem addrField_toNat (t : Transaction) : (addrField t).toNat = t.toNat / 2 ^ 16 % 2 ^ 16 := by
  simp [addrField, BitVec.extractLsb'_toNat, Nat.shiftRight_eq_div_pow]

theorem dataField_toNat (t : Transaction) : (dataField t).toNat = t.toNat % 2 ^ 16 := by
  simp [dataField, BitVec.extractLsb'_toNat]

theorem wrField_eq (t : Transaction) : wrField t = decide (t.toNat / 2 ^ 32 = 1) := by
  have := t.isLt
  rw [wrField, BitVec.getLsbD, Nat.testBit_eq_decide_div_mod_eq]
  congr 1
  apply propext
  omega

/-- A transaction is its three fields (R70). -/
theorem toNat_of_fields (t : Transaction) :
    t.toNat = (wrField t).toNat * 2 ^ 32 + (addrField t).toNat * 2 ^ 16 + (dataField t).toNat := by
  have := t.isLt
  rw [wrField_eq, addrField_toNat, dataField_toNat]
  by_cases h : t.toNat / 2 ^ 32 = 1 <;>
    simp only [h, decide_true, decide_false, Bool.toNat_true, Bool.toNat_false] <;> omega

@[simp] theorem addrField_htWord (wr : BitVec 1) (a d : Word) : addrField (htWord wr a d) = a := by
  apply BitVec.eq_of_toNat_eq
  rw [addrField_toNat, htWord_toNat]
  omega

@[simp] theorem dataField_htWord (wr : BitVec 1) (a d : Word) : dataField (htWord wr a d) = d := by
  apply BitVec.eq_of_toNat_eq
  rw [dataField_toNat, htWord_toNat]
  omega

@[simp] theorem wrField_htWord (wr : BitVec 1) (a d : Word) : wrField (htWord wr a d) = wr.getLsbD 0 := by
  have := a.isLt
  have := d.isLt
  rw [wrField_eq, htWord_toNat]
  have h : wr = 0#1 ∨ wr = 1#1 := by revert wr; decide
  rcases h with rfl | rfl <;> simp <;> omega

/-- The OPC field as a number (R72). -/
theorem opcField_toNat (c : Word) : (opcField c).toNat = c.toNat % 16 := by simp [opcField]

/-- ZERO is 0 exactly for the words below 16 (R72). -/
theorem zeroField_eq_zero_iff (c : Word) : zeroField c = 0#12 ↔ c.toNat < 16 := by
  rw [← BitVec.toNat_inj]
  simp [zeroField, BitVec.extractLsb'_toNat, Nat.shiftRight_eq_div_pow]
  omega

end Sys2Proof
end

