-- ==== Sys2Proof/Laws/State.lean ====
section
/-!
SUPPORT. The small lemmas of State and of the register file: one per field and update, what a store leaves in each
register, and that registers are determined by what they hold.
-/

namespace Sys2Proof.Machine

variable (s : State) (r : Regs)

@[simp] theorem State.reset_regs : State.reset.regs = Regs.reset := rfl
@[simp] theorem State.reset_port : State.reset.port = [] := rfl
@[simp] theorem State.reset_readData : State.reset.readData = none := rfl

@[simp] theorem State.applyReset_regs : s.applyReset.regs = Regs.reset := rfl
@[simp] theorem State.applyReset_port : s.applyReset.port = s.port := rfl
@[simp] theorem State.applyReset_readData : s.applyReset.readData = none := rfl

@[simp] theorem Regs.get_highWord : r.get .highWord = r.highWord := rfl
@[simp] theorem Regs.get_lowWord : r.get .lowWord = r.lowWord := rfl
@[simp] theorem Regs.get_crcWord : r.get .crcWord = r.crcWord := rfl
@[simp] theorem Regs.get_payloadHi : r.get .payloadHi = r.payloadHi := rfl
@[simp] theorem Regs.get_payloadLo : r.get .payloadLo = r.payloadLo := rfl
@[simp] theorem Regs.get_value3 : r.get .value3 = r.value3 := rfl
@[simp] theorem Regs.get_value2 : r.get .value2 = r.value2 := rfl
@[simp] theorem Regs.get_value1 : r.get .value1 = r.value1 := rfl
@[simp] theorem Regs.get_value0 : r.get .value0 = r.value0 := rfl
@[simp] theorem Regs.get_crcIn3 : r.get .crcIn3 = r.crcIn3 := rfl
@[simp] theorem Regs.get_crcIn2 : r.get .crcIn2 = r.crcIn2 := rfl
@[simp] theorem Regs.get_crcIn1 : r.get .crcIn1 = r.crcIn1 := rfl
@[simp] theorem Regs.get_crcIn0 : r.get .crcIn0 = r.crcIn0 := rfl
@[simp] theorem Regs.get_crcCfg : r.get .crcCfg = r.crcCfg := rfl
@[simp] theorem Regs.get_crcOut : r.get .crcOut = r.crcOut := rfl
@[simp] theorem Regs.get_status : r.get .status = r.status := rfl
@[simp] theorem Regs.get_command : r.get .command = 0#16 := rfl

@[simp] theorem Regs.put_highWord (g : Reg) (v : Word) :
    (r.put g v).highWord = if g = .highWord then v &&& mask .highWord else r.highWord := by cases g <;> rfl
@[simp] theorem Regs.put_lowWord (g : Reg) (v : Word) :
    (r.put g v).lowWord = if g = .lowWord then v &&& mask .lowWord else r.lowWord := by cases g <;> rfl
@[simp] theorem Regs.put_crcWord (g : Reg) (v : Word) :
    (r.put g v).crcWord = if g = .crcWord then v &&& mask .crcWord else r.crcWord := by cases g <;> rfl
@[simp] theorem Regs.put_payloadHi (g : Reg) (v : Word) :
    (r.put g v).payloadHi = if g = .payloadHi then v &&& mask .payloadHi else r.payloadHi := by cases g <;> rfl
@[simp] theorem Regs.put_payloadLo (g : Reg) (v : Word) :
    (r.put g v).payloadLo = if g = .payloadLo then v &&& mask .payloadLo else r.payloadLo := by cases g <;> rfl
@[simp] theorem Regs.put_value3 (g : Reg) (v : Word) :
    (r.put g v).value3 = if g = .value3 then v &&& mask .value3 else r.value3 := by cases g <;> rfl
@[simp] theorem Regs.put_value2 (g : Reg) (v : Word) :
    (r.put g v).value2 = if g = .value2 then v &&& mask .value2 else r.value2 := by cases g <;> rfl
@[simp] theorem Regs.put_value1 (g : Reg) (v : Word) :
    (r.put g v).value1 = if g = .value1 then v &&& mask .value1 else r.value1 := by cases g <;> rfl
@[simp] theorem Regs.put_value0 (g : Reg) (v : Word) :
    (r.put g v).value0 = if g = .value0 then v &&& mask .value0 else r.value0 := by cases g <;> rfl
@[simp] theorem Regs.put_crcIn3 (g : Reg) (v : Word) :
    (r.put g v).crcIn3 = if g = .crcIn3 then v &&& mask .crcIn3 else r.crcIn3 := by cases g <;> rfl
@[simp] theorem Regs.put_crcIn2 (g : Reg) (v : Word) :
    (r.put g v).crcIn2 = if g = .crcIn2 then v &&& mask .crcIn2 else r.crcIn2 := by cases g <;> rfl
@[simp] theorem Regs.put_crcIn1 (g : Reg) (v : Word) :
    (r.put g v).crcIn1 = if g = .crcIn1 then v &&& mask .crcIn1 else r.crcIn1 := by cases g <;> rfl
@[simp] theorem Regs.put_crcIn0 (g : Reg) (v : Word) :
    (r.put g v).crcIn0 = if g = .crcIn0 then v &&& mask .crcIn0 else r.crcIn0 := by cases g <;> rfl
@[simp] theorem Regs.put_crcCfg (g : Reg) (v : Word) :
    (r.put g v).crcCfg = if g = .crcCfg then v &&& mask .crcCfg else r.crcCfg := by cases g <;> rfl
@[simp] theorem Regs.put_crcOut (g : Reg) (v : Word) :
    (r.put g v).crcOut = if g = .crcOut then v &&& mask .crcOut else r.crcOut := by cases g <;> rfl
@[simp] theorem Regs.put_status (g : Reg) (v : Word) :
    (r.put g v).status = if g = .status then v &&& mask .status else r.status := by cases g <;> rfl

/-- A store leaves the masked value in its register and every other register alone (R36). -/
theorem Regs.get_put (g h : Reg) (v : Word) :
    (r.put g v).get h = if g = h then v &&& mask h else r.get h := by
  cases h <;> simp [mask]

theorem Regs.get_put_self (g : Reg) (v : Word) : (r.put g v).get g = v &&& mask g := by
  simp [Regs.get_put]

theorem Regs.get_put_of_ne {g h : Reg} (hne : g ≠ h) (v : Word) : (r.put g v).get h = r.get h := by
  simp [Regs.get_put, hne]

/-- Two register files that hold the same in every register are the same. -/
theorem Regs.ext_get {r r' : Regs} (h : ∀ g, r.get g = r'.get g) : r = r' := by
  cases r; cases r'
  simp only [Regs.mk.injEq]
  exact ⟨h .highWord, h .lowWord, h .crcWord, h .payloadHi, h .payloadLo, h .value3, h .value2, h .value1, h .value0,
    h .crcIn3, h .crcIn2, h .crcIn1, h .crcIn0, h .crcCfg, h .crcOut, h .status⟩

/-- The three parts of a state determine it. -/
theorem State.ext_parts {s t : State} (hr : s.regs = t.regs) (hp : s.port = t.port) (hd : s.readData = t.readData) :
    s = t := by
  cases s; cases t; simp_all

end Sys2Proof.Machine
end

