-- ==== Sys2Proof/Laws/Ops.lean ====
section
/-!
SUPPORT. One lemma for each shared operation, saying once what it can do: the register space and its numbers, the host's
read and write, the writes of the views, STATUS, and how a transaction ends. Later proofs cite these.
-/

namespace Sys2Proof.Machine

variable (s : State) (r : Regs)

/-! ### Register numbers -/

/-- A number names a register exactly when it is that register's number (R22). -/
theorem regAt_eq_some_iff (a : Word) (g : Reg) : regAt a = some g ↔ g.number = a := by
  have key : regAt a = some g ↔ g.number.toNat = a.toNat := by
    unfold regAt
    cases g <;> split <;> (simp_all [Reg.number]; try omega)
  rw [key, ← BitVec.toNat_inj]

@[simp] theorem regAt_number (g : Reg) : regAt g.number = some g := (regAt_eq_some_iff _ g).2 rfl

theorem Reg.number_injective {g h : Reg} (e : g.number = h.number) : g = h := by
  have := regAt_number g
  rw [e, regAt_number] at this
  exact (Option.some.inj this).symm

/-- The numbers 17 to 65535 name no register (R51). -/
theorem regAt_eq_none_iff (a : Word) : regAt a = none ↔ 17 ≤ a.toNat := by
  unfold regAt
  split <;> (simp_all; try omega)

/-! ### Masks -/

@[simp] theorem and_mask_mask (v : Word) (g : Reg) : v &&& mask g &&& mask g = v &&& mask g := by
  rw [BitVec.and_assoc, BitVec.and_self]

theorem and_allOnes_word (v : Word) : v &&& 0xFFFF#16 = v := by
  have : (0xFFFF#16 : Word) = BitVec.allOnes 16 := by decide
  rw [this, BitVec.and_allOnes]

/-- The registers 0 to 12 store all 16 bits (R36). -/
theorem and_mask_of_full {g : Reg} (v : Word) (h : mask g = 0xFFFF#16) : v &&& mask g = v := by
  rw [h, and_allOnes_word]

/-- A zero-extended CRC fits CRC_OUT's mask. -/
theorem crcOut_fits (c : Nibble) : c.setWidth 16 &&& mask .crcOut = c.setWidth 16 := by
  revert c; decide

/-- Every STATUS word a command writes fits STATUS's mask (R13, R36). -/
theorem status_fits (k c : Nibble) (e : ResultCode) : statusWord k c e &&& mask .status = statusWord k c e := by
  revert k c; cases e <;> decide

/-- The fields of a STATUS word are what it was assembled from (R32). -/
@[simp] theorem statusCode_statusWord (k c : Nibble) (e : ResultCode) : statusCode (statusWord k c e) = e.code := by
  revert k c; cases e <;> decide

@[simp] theorem statusCalc_statusWord (k c : Nibble) (e : ResultCode) : statusCalc (statusWord k c e) = c := by
  revert k c; cases e <;> decide

@[simp] theorem statusRecv_statusWord (k c : Nibble) (e : ResultCode) : statusRecv (statusWord k c e) = k := by
  revert k c; cases e <;> decide

/-- A STATUS word keeps the reserved bits of STATUS 0. -/
theorem statusWord_reserved (k c : Nibble) (e : ResultCode) : statusWord k c e &&& 0xF008#16 = 0#16 := by
  revert k c; cases e <;> decide

/-! ### The host's read and write -/

@[simp] theorem readReg_number (g : Reg) : readReg r g.number = r.get g &&& mask g := by
  simp [readReg]

theorem readReg_of_unimplemented {a : Word} (h : 17 ≤ a.toNat) : readReg r a = 0#16 := by
  simp [readReg, (regAt_eq_none_iff a).2 h]

/-- Register files that hold the same where `a` names a register read the same at `a`. -/
theorem readReg_congr {r r' : Regs} {a : Word} (h : ∀ g, g.number = a → r.get g = r'.get g) :
    readReg r a = readReg r' a := by
  unfold readReg
  cases e : regAt a with
  | none => rfl
  | some g => simp [h g ((regAt_eq_some_iff a g).1 e)]

/-- A WRITE other than to COMMAND stores in the register it names, unless that is STATUS (R101). -/
theorem get_writeReg (a d : Word) (h : Reg) :
    (writeReg r a d).get h =
      if h.number = a ∧ h ≠ .status ∧ h ≠ .command then d &&& mask h else r.get h := by
  unfold writeReg
  cases e : regAt a with
  | none =>
    have : h.number ≠ a := fun hh => by rw [← hh, regAt_number] at e; simp at e
    simp [this]
  | some g =>
    have hg : g.number = a := (regAt_eq_some_iff a g).1 e
    have hn : h.number = a ↔ g = h :=
      ⟨fun hh => Reg.number_injective (hg.trans hh.symm), fun hh => hh ▸ hg⟩
    simp only [hn]
    cases g <;> simp [Regs.get_put] <;> aesop

/-! ### The views -/

theorem get_report (k c : Nibble) (e : ResultCode) (g : Reg) :
    (r.report k c e).get g = if g = .status then statusWord k c e else r.get g := by
  unfold Regs.report
  rw [Regs.get_put]
  by_cases h : g = .status
  · subst h; simp [status_fits]
  · simp [h, Ne.symm h]

theorem get_putPayload (w : Payload) (g : Reg) :
    (r.putPayload w).get g =
      if g = .payloadHi then w.extractLsb' 16 16 else if g = .payloadLo then w.extractLsb' 0 16 else r.get g := by
  unfold Regs.putPayload
  cases g <;> simp [mask, and_allOnes_word]

theorem get_putValue (y : Word64) (g : Reg) :
    (r.putValue y).get g =
      if g = .value3 then y.extractLsb' 48 16 else if g = .value2 then y.extractLsb' 32 16
      else if g = .value1 then y.extractLsb' 16 16 else if g = .value0 then y.extractLsb' 0 16 else r.get g := by
  unfold Regs.putValue
  cases g <;> simp [mask, and_allOnes_word]

theorem get_putCrcOut (c : Nibble) (g : Reg) :
    (r.putCrcOut c).get g = if g = .crcOut then c.setWidth 16 else r.get g := by
  unfold Regs.putCrcOut
  rw [Regs.get_put]
  by_cases h : g = .crcOut
  · subst h; simp [crcOut_fits]
  · simp [h, Ne.symm h]

theorem get_putTriple (h l k : Word) (g : Reg) :
    (r.putTriple h l k).get g =
      if g = .highWord then h else if g = .lowWord then l else if g = .crcWord then k else r.get g := by
  unfold Regs.putTriple
  cases g <;> simp [mask, and_allOnes_word]

/-! ### How a transaction ends -/

theorem finish_eq : s.finish r = .next { s with regs := r, readData := none } := rfl

theorem succeed_eq : s.succeed r = .next { s with regs := r.report 0#4 0#4 .ok, readData := none } := rfl

theorem raise_eq (c : ResultCode) :
    s.raise c = .next { s with regs := s.regs.report 0#4 0#4 c, readData := none } := rfl

theorem respond_eq (v : Word) : s.respond v = .next { s with readData := some v } := rfl

/-! ### The port -/

theorem takeEvent_nil (h : s.port = []) : s.takeEvent = none := by simp [State.takeEvent, h]

theorem takeEvent_cons {e : PortEvent} {rest : List PortEvent} (h : s.port = e :: rest) :
    s.takeEvent = some (e, { s with port := rest }) := by simp [State.takeEvent, h]

end Sys2Proof.Machine
end

