-- ==== Sys2Proof/Laws/Commands.lean ====
section
/-!
SUPPORT. What the commands are made of, once each: the views after a write and what a write of one view leaves in the
others, the fields of narrow registers as numbers, the answers of enc32 and validate, and how an error ends a command
(with its frame). The claims about the commands cite these.
-/

namespace Sys2Proof.Machine

variable (s : State) (r : Regs)

/-! ### Views as numbers (10_state.md R23) -/

theorem payload_toNat : r.payload.toNat = r.payloadHi.toNat * 2 ^ 16 + r.payloadLo.toNat := append_toNat _ _

theorem value_toNat :
    r.value.toNat =
      r.value3.toNat * 2 ^ 48 + r.value2.toNat * 2 ^ 32 + r.value1.toNat * 2 ^ 16 + r.value0.toNat := by
  show (r.value3 ++ r.value2 ++ r.value1 ++ r.value0 : BitVec (16 + 16 + 16 + 16)).toNat = _
  rw [append_toNat, append_toNat, append_toNat]
  omega

theorem crcIn_toNat :
    r.crcIn.toNat =
      r.crcIn3.toNat * 2 ^ 48 + r.crcIn2.toNat * 2 ^ 32 + r.crcIn1.toNat * 2 ^ 16 + r.crcIn0.toNat := by
  show (r.crcIn3 ++ r.crcIn2 ++ r.crcIn1 ++ r.crcIn0 : BitVec (16 + 16 + 16 + 16)).toNat = _
  rw [append_toNat, append_toNat, append_toNat]
  omega

/-- The two halves of a payload make it (43_register_packer.md R180, R181). -/
theorem payload_halves (w : Payload) : w.extractLsb' 16 16 ++ w.extractLsb' 0 16 = w := by
  apply BitVec.eq_of_toNat_eq
  have := w.isLt
  show (w.extractLsb' 16 16 ++ w.extractLsb' 0 16 : BitVec (16 + 16)).toNat = _
  rw [append_toNat]
  simp [BitVec.extractLsb'_toNat, Nat.shiftRight_eq_div_pow]
  omega

theorem high_half (h l : Word) : (h ++ l : Payload).extractLsb' 16 16 = h := by
  have e : (h ++ l : Payload).toNat = h.toNat * 2 ^ 16 + l.toNat := append_toNat h l
  apply BitVec.eq_of_toNat_eq
  rw [BitVec.extractLsb'_toNat, e, Nat.shiftRight_eq_div_pow]
  omega

theorem low_half (h l : Word) : (h ++ l : Payload).extractLsb' 0 16 = l := by
  have e : (h ++ l : Payload).toNat = h.toNat * 2 ^ 16 + l.toNat := append_toNat h l
  apply BitVec.eq_of_toNat_eq
  rw [BitVec.extractLsb'_toNat, e, Nat.shiftRight_eq_div_pow]
  omega

/-- Registers that hold the four words of `y` hold the view `y` (R52). -/
theorem value_of_words (y : Word64) (h3 : r.value3 = y.extractLsb' 48 16) (h2 : r.value2 = y.extractLsb' 32 16)
    (h1 : r.value1 = y.extractLsb' 16 16) (h0 : r.value0 = y.extractLsb' 0 16) : r.value = y := by
  apply BitVec.eq_of_toNat_eq
  have := y.isLt
  rw [value_toNat, h3, h2, h1, h0]
  simp [BitVec.extractLsb'_toNat, Nat.shiftRight_eq_div_pow]
  omega

theorem crcIn_of_words (y : Word64) (h3 : r.crcIn3 = y.extractLsb' 48 16) (h2 : r.crcIn2 = y.extractLsb' 32 16)
    (h1 : r.crcIn1 = y.extractLsb' 16 16) (h0 : r.crcIn0 = y.extractLsb' 0 16) : r.crcIn = y := by
  apply BitVec.eq_of_toNat_eq
  have := y.isLt
  rw [crcIn_toNat, h3, h2, h1, h0]
  simp [BitVec.extractLsb'_toNat, Nat.shiftRight_eq_div_pow]
  omega

/-! ### Views after a write -/

@[simp] theorem putPayload_payload (w : Payload) : (r.putPayload w).payload = w := by
  refine Eq.trans ?_ (payload_halves w)
  simp [Regs.putPayload, Regs.payload, mask, and_allOnes_word]

@[simp] theorem putValue_value (y : Word64) : (r.putValue y).value = y := by
  apply value_of_words <;> simp [Regs.putValue, mask, and_allOnes_word]

@[simp] theorem putTriple_triple (h l k : Word) : (r.putTriple h l k).triple = ⟨h, l, k⟩ := by
  simp [Regs.putTriple, Regs.triple, mask, and_allOnes_word]

@[simp] theorem putCrcOut_crcOut (c : Nibble) : (r.putCrcOut c).crcOut = c.setWidth 16 := by
  simpa using get_putCrcOut r c .crcOut

@[simp] theorem putPayload_value (w : Payload) : (r.putPayload w).value = r.value := by
  simp [Regs.putPayload, Regs.value]
@[simp] theorem putPayload_triple (w : Payload) : (r.putPayload w).triple = r.triple := by
  simp [Regs.putPayload, Regs.triple]
@[simp] theorem putValue_payload (y : Word64) : (r.putValue y).payload = r.payload := by
  simp [Regs.putValue, Regs.payload]
@[simp] theorem putCrcOut_payload (c : Nibble) : (r.putCrcOut c).payload = r.payload := by
  simp [Regs.putCrcOut, Regs.payload]
@[simp] theorem putCrcOut_value (c : Nibble) : (r.putCrcOut c).value = r.value := by
  simp [Regs.putCrcOut, Regs.value]
@[simp] theorem putTriple_payload (h l k : Word) : (r.putTriple h l k).payload = r.payload := by
  simp [Regs.putTriple, Regs.payload]
@[simp] theorem report_payload (k c : Nibble) (e : ResultCode) : (r.report k c e).payload = r.payload := by
  simp [Regs.report, Regs.payload]
@[simp] theorem report_value (k c : Nibble) (e : ResultCode) : (r.report k c e).value = r.value := by
  simp [Regs.report, Regs.value]
@[simp] theorem report_triple (k c : Nibble) (e : ResultCode) : (r.report k c e).triple = r.triple := by
  simp [Regs.report, Regs.triple]
@[simp] theorem report_status (k c : Nibble) (e : ResultCode) : (r.report k c e).status = statusWord k c e := by
  simpa using get_report r k c e .status

/-! ### Narrow fields -/

/-- The CRC field of a word as a number. -/
theorem nibble_toNat (k : Word) : (k.extractLsb' 0 4).toNat = k.toNat % 16 := by simp [BitVec.extractLsb'_toNat]

/-- A zero-extended CRC as a number (R74). -/
theorem zext_toNat (k : Nibble) : (k.setWidth 16 : Word).toNat = k.toNat := by
  have := k.isLt
  rw [BitVec.toNat_setWidth, Nat.mod_eq_of_lt (by omega)]

/-- A CRC written to a register and cut out of it again is the same. -/
theorem nibble_zext (k : Nibble) : (k.setWidth 16 : Word).extractLsb' 0 4 = k := by revert k; decide

/-- STATUS as a number: `(recv << 8) | (computed << 4) | code` (00_scope.md R13). -/
theorem statusWord_toNat (k c : Nibble) (e : ResultCode) :
    (statusWord k c e).toNat = k.toNat * 2 ^ 8 + c.toNat * 2 ^ 4 + e.code.toNat := by
  revert k c; cases e <;> decide

/-- LEN as a number (R75). -/
theorem crcLen_eq : r.crcLen = r.crcCfg.toNat % 128 := by simp [Regs.crcLen, BitVec.extractLsb'_toNat]

/-! ### The pure functions' answers -/

/-- The encoder has two errors (41_float_codec.md R122). -/
theorem enc32_err {x : Word64} {c : ResultCode} (h : enc32 x = .err c) : c = .invalidInput ∨ c = .rangeOverflow := by
  simp only [enc32] at h
  split at h
  · simp_all
  · split at h
    · cases h
    · split at h <;> simp_all

/-- What validate answers says what it compared (43_register_packer.md R182). -/
theorem validate_ok {w : Payload} {k c : Nibble} (h : validate w k = .ok c) : c = payloadCrc w ∧ c = k := by
  simp only [validate] at h
  split at h <;> simp_all

theorem validate_mismatch {w : Payload} {k c k' : Nibble} (h : validate w k = .mismatch c k') :
    c = payloadCrc w ∧ k' = k ∧ c ≠ k := by
  simp only [validate] at h
  split at h
  next => simp at h
  next hne =>
    simp only [Validation.mismatch.injEq] at h
    obtain ⟨h1, h2⟩ := h
    exact ⟨h1.symm, h2.symm, fun e => hne (h1.trans e)⟩

/-! ### Frames -/

/-- A transaction that keeps the port and every register outside a list has that list's frame. -/
theorem SameExcept.of_get {s t : State} {written : List Reg} (h : ∀ g, g ∉ written → t.regs.get g = s.regs.get g)
    (hp : t.port = s.port) : SameExcept written s t :=
  ⟨h, fun _ ha => readReg_congr fun g hg => h g fun hm => ha g hm hg, hp⟩

/-- A frame holds for a longer list. -/
theorem SameExcept.mono {s t : State} {ws ws' : List Reg} (h : SameExcept ws s t) (hw : ∀ g ∈ ws, g ∈ ws') :
    SameExcept ws' s t :=
  SameExcept.of_get (fun g hg => h.1 g fun hm => hg (hw g hm)) h.2.2

/-- An error other than CHECKSUM_MISMATCH changes STATUS and nothing else (60_exceptions.md R221). -/
theorem raise_spec (c : ResultCode) :
    ∃ t, s.raise c = .next t ∧ t.regs.status = statusWord 0#4 0#4 c ∧ t.readData = none ∧ SameExcept [.status] s t := by
  refine ⟨_, rfl, report_status _ _ _ _, rfl, SameExcept.of_get (fun g hg => ?_) rfl⟩
  show (s.regs.report _ _ _).get g = _
  rw [get_report, if_neg (by simpa using hg)]

end Sys2Proof.Machine
end

