-- ==== Sys2Proof/Laws/PerInstr.lean ====
section
/-!
SUPPORT. The family FieldLayout: the fields of each instruction's transaction, as the tables of 30_encoding.md (R70 to
R73) give them.
-/

namespace Sys2Proof.Laws.FieldLayout

/-- The fields WR, ADDR and DATA of the instruction's transaction. -/
def fields : Instr → Bool × Word × Word
  | .read a x => (false, a, x)
  | .write a d => (true, a, d)
  | .encode => (true, 16#16, 1#16)
  | .decode => (true, 16#16, 2#16)
  | .crc4 => (true, 16#16, 3#16)
  | .pack => (true, 16#16, 4#16)
  | .unpack => (true, 16#16, 5#16)
  | .send => (true, 16#16, 6#16)
  | .receive => (true, 16#16, 7#16)
  | .illegal c => (true, 16#16, c)

/-- The encoder puts each field where R70 places it. -/
def Statement (i : Instr) : Prop :=
  (wrField (encode i), addrField (encode i), dataField (encode i)) = fields i

theorem read (a x : Word) : Statement (.read a x) := by simp [Statement, encode, fields]
theorem write (a d : Word) : Statement (.write a d) := by simp [Statement, encode, fields]
theorem encode : Statement .encode := by unfold Statement; decide
theorem decode : Statement .decode := by unfold Statement; decide
theorem crc4 : Statement .crc4 := by unfold Statement; decide
theorem pack : Statement .pack := by unfold Statement; decide
theorem unpack : Statement .unpack := by unfold Statement; decide
theorem send : Statement .send := by unfold Statement; decide
theorem receive : Statement .receive := by unfold Statement; decide
theorem illegal (c : Word) : Statement (.illegal c) := by
  simp [Statement, Sys2Proof.encode, commandTransaction, Config.commandAddr, fields]

end Sys2Proof.Laws.FieldLayout
end

