-- ==== Sys2Proof/Tests/Slice0.lean ====
section
/-!
SUPPORT. The tests: ill-formed terms refused, words written out from the encodings of 30_encoding.md decoded, one-step
tests whose results are the vectors of 95_test_vectors.md (V, P and S numbers) or the rules' own examples, and a witness
for the hypotheses of each statement.
-/

namespace Sys2Proof.Tests

open Sys2Proof Sys2Proof.Machine Sys2Proof.Claims

set_option maxRecDepth 8000

/-! ### Helpers -/

/-- The reset state with some registers changed. -/
def loaded (f : Regs → Regs) : State := { State.reset with regs := f Regs.reset }

/-- The state in which the host issues `w` next. -/
def issuing (w : Transaction) (s : State) : State := s.issueNext w

/-- The state after one step that performs `w`. -/
def after (w : Transaction) (s : State) : State :=
  match step (issuing w s) with
  | .next t => t
  | .fault _ => s
  | .refused _ => s

/-- The triple of 5.75 (scenario S3). -/
def tripleOf575 : State := loaded (·.putTriple 0x40B8#16 0x0000#16 0x0004#16)

/-- The triple of 5.75 with bit 0 of LOW_WORD flipped (scenario S4). -/
def tamperedTriple : State := loaded (·.putTriple 0x40B8#16 0x0001#16 0x0004#16)

/-- VALUE = `x` in the reset state. -/
def withValue (x : Word64) : State := loaded (·.putValue x)

/-! ### WellFormed: each check refuses an ill-formed term -/

theorem test_write_to_command_is_ill_formed : (Instr.write 16#16 0x0001#16).wf = false := by decide
theorem test_write_next_to_command_is_well_formed :
    (Instr.write 15#16 0#16).wf = true ∧ (Instr.write 17#16 0#16).wf = true := by decide
theorem test_illegal_with_a_command_word_is_ill_formed :
    (Instr.illegal 0x0001#16).wf = false ∧ (Instr.illegal 0x0007#16).wf = false := by decide
theorem test_illegal_at_the_edges_is_well_formed :
    (Instr.illegal 0x0000#16).wf = true ∧ (Instr.illegal 0x0008#16).wf = true ∧
    (Instr.illegal 0x0011#16).wf = true := by decide

/-! ### Decoding: bit 32 WR, bits 31:16 ADDR, bits 15:0 DATA -/

/-- WR = 0, ADDR = 0x000D, DATA = 0x5555. -/
theorem test_decode_read : decode 0b0_0000000000001101_0101010101010101#33 = .read 0x000D#16 0x5555#16 := by decide
/-- WR = 1, ADDR = 0x000E, DATA = 0xABCD. -/
theorem test_decode_write : decode 0b1_0000000000001110_1010101111001101#33 = .write 0x000E#16 0xABCD#16 := by decide
/-- A READ of COMMAND is a READ (R71). -/
theorem test_decode_read_command : decode 0b0_0000000000010000_0000000000000001#33 = .read 16#16 1#16 := by decide
theorem test_decode_encode : decode 0b1_0000000000010000_0000000000000001#33 = .encode := by decide
theorem test_decode_decode : decode 0b1_0000000000010000_0000000000000010#33 = .decode := by decide
theorem test_decode_crc4 : decode 0b1_0000000000010000_0000000000000011#33 = .crc4 := by decide
theorem test_decode_pack : decode 0b1_0000000000010000_0000000000000100#33 = .pack := by decide
theorem test_decode_unpack : decode 0b1_0000000000010000_0000000000000101#33 = .unpack := by decide
theorem test_decode_send : decode 0b1_0000000000010000_0000000000000110#33 = .send := by decide
theorem test_decode_receive : decode 0b1_0000000000010000_0000000000000111#33 = .receive := by decide
theorem test_decode_illegal_zero : decode 0b1_0000000000010000_0000000000000000#33 = .illegal 0x0000#16 := by decide
theorem test_decode_illegal_eight : decode 0b1_0000000000010000_0000000000001000#33 = .illegal 0x0008#16 := by decide
theorem test_decode_illegal_high_bits : decode 0b1_0000000000010000_0000000000010001#33 = .illegal 0x0011#16 := by decide

/-- The rows of spec/opcode_table.json: format HT has 33 bits, format CMD the 16 bits of its command word. -/
theorem test_table_words :
    decodeTableWord 33 0x0000D5555 = some (.read 13#16 0x5555#16) ∧
    decodeTableWord 40 0x1000EABCD = some (.write 14#16 0xABCD#16) ∧
    decodeTableWord 16 0x0006 = some .send ∧
    decodeTableWord 33 0x100100006 = some .send ∧
    decodeTableWord 16 0x0000 = some (.illegal 0#16) := by decide
theorem test_table_word_too_wide : decodeTableWord 40 (2 ^ 33) = none ∧ decodeTableWord 16 (2 ^ 16) = none := by decide
theorem test_step_runs_a_table_word :
    step (State.reset.withFetchWord 16 0x0007) = exec .receive State.reset ∧
    step (State.reset.withFetchWord 33 0x0000D0000) = exec (.read 13#16 0#16) State.reset := ⟨rfl, rfl⟩

/-! ### One step each -/

/-- V1. -/
theorem test_read_crc_cfg_after_reset : (after 0x0000D0000#33 State.reset).readData = some 0x1320#16 := by decide
/-- V4. -/
theorem test_read_unimplemented : (after 0x0FFFF0000#33 State.reset).readData = some 0x0000#16 := by decide
/-- V5. -/
theorem test_write_crc_cfg_masks : (after 0x1000DFFFF#33 State.reset).regs.crcCfg = 0x1F7F#16 := by decide
/-- V8. -/
theorem test_write_status_is_ignored : (after 0x1000F0123#33 State.reset).regs = Regs.reset := by decide
/-- V25: truncated, not rounded. -/
theorem test_encode_truncates : (after 0x100100001#33 (withValue 0x3FB999999999999A#64)).regs.payload = 0x3DCCCCCC#32 := by
  decide
/-- V36. -/
theorem test_encode_overflow : (after 0x100100001#33 (withValue 0x4800000000000000#64)).regs.status = 0x0003#16 := by decide
/-- V49. -/
theorem test_decode_of_zero : (after 0x100100002#33 State.reset).regs.value = 0x3800000000000000#64 := by decide
/-- V55. -/
theorem test_decode_of_ones :
    (after 0x100100002#33 (loaded (·.putPayload 0xFFFFFFFF#32))).regs.value = 0xC7FFFFFFE0000000#64 := by decide
/-- V63. -/
theorem test_crc4_ten_bits :
    (after 0x100100003#33 (loaded fun r => { r with crcCfg := 0x130A#16, crcIn0 := 0x035B#16 })).regs.crcOut = 0x000E#16 := by
  decide
/-- V71. -/
theorem test_crc4_other_polynomial :
    (after 0x100100003#33 (loaded fun r => { r with crcCfg := 0x1F05#16, crcIn0 := 0x0013#16 })).regs.crcOut = 0x0006#16 := by
  decide
/-- The example of R183. -/
theorem test_pack_example :
    (after 0x100100004#33 (loaded fun r => (r.putPayload 0x40B80000#32).putCrcOut 4#4)).regs.triple =
      ⟨0x40B8#16, 0x0000#16, 0x0004#16⟩ := by decide
/-- Scenario S4 through UNPACK: the example of R184. -/
theorem test_unpack_mismatch :
    (after 0x100100005#33 tamperedTriple).regs.status = 0x0472#16 ∧
    (after 0x100100005#33 tamperedTriple).regs.payload = 0x40B80001#32 := by decide
/-- The example of R200. -/
theorem test_send_example :
    (after 0x100100006#33 (withValue 0x4017000000000000#64)).regs.triple = ⟨0x40B8#16, 0x0000#16, 0x0004#16⟩ := by decide
/-- Scenario S3. -/
theorem test_receive_example :
    (after 0x100100007#33 tripleOf575).regs.value = 0x4017000000000000#64 ∧
    (after 0x100100007#33 tripleOf575).regs.status = 0x0440#16 := by decide
/-- Scenario S4. -/
theorem test_receive_mismatch_keeps_value : (after 0x100100007#33 tamperedTriple).regs.value = 0#64 := by decide
/-- V14. -/
theorem test_illegal_example :
    after 0x100100011#33 tripleOf575 =
      { tripleOf575 with regs := { tripleOf575.regs with status := 0x0004#16 } } := by decide
/-- R250. -/
theorem test_reset_event :
    step { tripleOf575 with port := [.reset] } = .next State.reset := rfl

/-! ### Witnesses: for each statement with hypotheses, a state and operands that meet them -/

theorem witness_StepRunsIssuedTransaction :
    (issuing 0x100100001#33 State.reset).port = .transaction 0x100100001#33 :: [] ∧
    tableTransaction 16 0x0001 = .ok 0x100100001#33 := ⟨by decide, by rfl⟩
theorem witness_IdleStepKeepsState : State.reset.port = [] := by decide
theorem witness_EventsPerformedInIssueOrder :
    ({ State.reset with port := [.reset, .transaction 0x100100001#33] } : State).port =
      .reset :: [.transaction 0x100100001#33] := by decide
theorem witness_DecodeFollowsTheFieldTables :
    (15#16 : Word) ≠ 16#16 ∧ (17#16 : Word) ≠ 16#16 ∧ (0x0010#16 : Word).extractLsb' 4 12 ≠ 0#12 ∧
    (0x000F#16 : Word).extractLsb' 4 12 = 0#12 ∧ (0x0000#16 : Word).extractLsb' 4 12 = 0#12 := by decide
theorem witness_DecodeOfEncode :
    (Instr.read 0xFFFF#16 0xFFFF#16).wf = true ∧ (Instr.write 0xFFFF#16 0xFFFF#16).wf = true ∧
    Instr.receive.wf = true ∧ (Instr.illegal 0xFFFF#16).wf = true := by decide
theorem witness_ResetSetsEveryRegister : ({ tripleOf575 with port := [.reset] } : State).port = .reset :: [] := by decide
theorem witness_StepKeepsTheInvariant :
    (issuing 0x100100007#33 tamperedTriple).Inv ∧
    step (issuing 0x100100007#33 tamperedTriple) = .next (after 0x100100007#33 tamperedTriple) := ⟨by decide, rfl⟩
theorem witness_ReadReturnsTheRegister :
    (issuing (BitVec.ofNat 33 ((15#16 : Word).toNat * 2 ^ 16 + (0#16 : Word).toNat)) State.reset).port =
      .transaction (BitVec.ofNat 33 ((15#16 : Word).toNat * 2 ^ 16 + (0#16 : Word).toNat)) :: [] := by decide
theorem witness_WriteStoresUnderTheMask :
    (14#16 : Word) ≠ 16#16 ∧ Reg.crcOut.number = 14#16 ∧ (14#16 : Word).toNat ≤ 14 ∧
    (15#16 : Word) ≠ 16#16 ∧ 15 ≤ (15#16 : Word).toNat ∧ 15 ≤ (17#16 : Word).toNat ∧
    Reg.crcCfg.number ≠ 14#16 ∧ (13#16 : Word) ≠ 14#16 := by decide
theorem witness_ReadAfterWrite : (0#16 : Word) ≠ 16#16 ∧ (0xFFFF#16 : Word) ≠ 16#16 := by decide
theorem witness_OnlyCommandWritesHaveSideEffects :
    (14#16 : Word).toNat ≤ 14 ∧ 17 ≤ (17#16 : Word).toNat ∧
    (issuing (writeToCommand 0x0006#16) (issuing (writeToCommand 0x0006#16) State.reset)).port =
      .transaction (writeToCommand 0x0006#16) :: .transaction (writeToCommand 0x0006#16) :: [] := by decide
theorem witness_CommandWriteDispatch :
    (issuing (writeToCommand 0x0007#16) State.reset).port = .transaction (writeToCommand 0x0007#16) :: [] ∧
    (loaded (·.putPayload 0x40B80000#32)).regs.payload = 0x40B80000#32 ∧
    Reg.payloadHi ∈ operands (decodeCommand 0x0002#16) := by decide
/-- ENCODE changes PAYLOAD_HI in one state; two states that differ in PAYLOAD_HI alone; and the example's state. -/
theorem witness_CommandWriteRunsItsCommand :
    (issuing (writeToCommand 0x0001#16) (withValue 0x4017000000000000#64)).port =
      .transaction (writeToCommand 0x0001#16) :: [] ∧
    step (issuing (writeToCommand 0x0001#16) (withValue 0x4017000000000000#64)) =
      .next (after (writeToCommand 0x0001#16) (withValue 0x4017000000000000#64)) ∧
    (after (writeToCommand 0x0001#16) (withValue 0x4017000000000000#64)).regs.get .payloadHi ≠
      (issuing (writeToCommand 0x0001#16) (withValue 0x4017000000000000#64)).regs.get .payloadHi ∧
    (∀ h : Reg, h ≠ .payloadHi → State.reset.regs.get h = (loaded fun r => { r with payloadHi := 0x1234#16 }).regs.get h) ∧
    (issuing (writeToCommand 0x0002#16) (loaded (·.putPayload 0x40B80000#32))).port =
      .transaction (writeToCommand 0x0002#16) :: [] ∧
    (issuing (writeToCommand 0x0002#16) (loaded (·.putPayload 0x40B80000#32))).regs.payload = 0x40B80000#32 := by
  refine ⟨by decide, rfl, by decide, ?_, by decide, by decide⟩
  intro h hne
  cases h <;> first | rfl | exact absurd rfl hne

theorem witness_IllegalCommandOnlySetsStatus :
    (0x0008#16 : Word) ≤ 0x0008#16 ∧ (0x0008#16 : Word) ≤ 0x000F#16 ∧
    (0x0010#16 : Word).extractLsb' 4 12 ≠ 0#12 ∧
    (issuing (writeToCommand 0x0000#16) State.reset).port = .transaction (writeToCommand 0x0000#16) :: [] := by decide

/-! The encoder's cases. -/

/-- 2^-127, the least magnitude that encodes, and 2^129, the least that overflows: their exact values. -/
theorem value64_least : value64 0x3800000000000000#64 = some ((2 : ℚ) ^ (-127 : ℤ)) := by
  simp [value64]
theorem value64_overflow : value64 0x4800000000000000#64 = some ((2 : ℚ) ^ (129 : ℤ)) := by
  simp [value64]
theorem value64_underflow : value64 0x37F0000000000000#64 = some ((2 : ℚ) ^ (-128 : ℤ)) := by
  simp [value64]
theorem value64_one_and_a_half : value64 0x3FF8000000000000#64 = some (3 / 2) := by
  simp [value64]
  norm_num

theorem witness_not_finite : NotFinite (withValue 0x7FF0000000000000#64).regs.value := by unfold NotFinite; decide
theorem witness_zero :
    IsZero (withValue 0x8000000000000000#64).regs.value ∧ IsZero (withValue 0x0000000000000000#64).regs.value := by
  unfold IsZero; decide
theorem witness_too_large : OutOfRange (withValue 0x4800000000000000#64).regs.value := by
  rw [show (withValue 0x4800000000000000#64).regs.value = 0x4800000000000000#64 by decide]
  exact ⟨_, value64_overflow, by positivity, .inl (by norm_num)⟩
theorem witness_too_small : OutOfRange (withValue 0x37F0000000000000#64).regs.value := by
  rw [show (withValue 0x37F0000000000000#64).regs.value = 0x37F0000000000000#64 by decide]
  exact ⟨_, value64_underflow, by positivity, .inr (by norm_num)⟩
theorem witness_encodable :
    ¬ NotFinite (withValue 0x3800000000000000#64).regs.value ∧ ¬ IsZero (withValue 0x3800000000000000#64).regs.value ∧
    ¬ OutOfRange (withValue 0x3800000000000000#64).regs.value := by
  rw [show (withValue 0x3800000000000000#64).regs.value = 0x3800000000000000#64 by decide]
  refine ⟨by unfold NotFinite; decide, by unfold IsZero; decide, ?_⟩
  rintro ⟨v, hv, -, h⟩
  rw [value64_least] at hv
  cases hv
  rcases h with h | h <;> norm_num at h

/-- One VALUE for each check of EncoderChecksInOrder and EachCommandReportsOneCode, at the edges of the range. -/
theorem witness_EncoderChecksInOrder :
    NotFinite (withValue 0x7FF0000000000000#64).regs.value ∧ IsZero (withValue 0x8000000000000000#64).regs.value ∧
    OutOfRange (withValue 0x4800000000000000#64).regs.value ∧ OutOfRange (withValue 0x37F0000000000000#64).regs.value ∧
    ¬ OutOfRange (withValue 0x3800000000000000#64).regs.value :=
  ⟨witness_not_finite, witness_zero.1, witness_too_large, witness_too_small, witness_encodable.2.2⟩

theorem witness_EncodeRunsTheSourceAlgorithm :
    (withValue 0x4017000000000000#64).regs.value = 0x4017000000000000#64 ∧
    enc32Literal 0x0000000000000000#64 = some (.ok 0#32) ∧
    enc32Literal 0x7FF0000000000000#64 = some (.err .invalidInput) := by
  refine ⟨by decide, ?_, ?_⟩ <;> simp [enc32Literal, value64, BitVec.extractLsb', BitVec.getLsbD]
theorem witness_DecodeGivesTheExactReal : (loaded (·.putPayload 0x7F800000#32)).regs.payload = 0x7F800000#32 := by decide
theorem witness_CodecRoundTrips :
    exec .encode (withValue 0x3FF8000000000000#64) =
      .next (after 0x100100001#33 (withValue 0x3FF8000000000000#64)) ∧
    (after 0x100100001#33 (withValue 0x3FF8000000000000#64)).regs.status = 0x0000#16 ∧
    (withValue 0x3FF8000000000000#64).regs.value.extractLsb' 0 63 ≠ 0#63 := ⟨rfl, by decide, by decide⟩
theorem witness_EncodingTruncatesTowardZero :
    enc32 0x3FF8000000000000#64 = .ok 0x3FC00000#32 ∧ ¬ IsZero 0x3FF8000000000000#64 ∧
    value64 0x3FF8000000000000#64 = some (3 / 2) ∧ (2 : ℚ) ^ (0 : ℤ) ≤ |3 / 2| ∧ |(3 / 2 : ℚ)| < 2 ^ ((0 : ℤ) + 1) := by
  refine ⟨by decide, by unfold IsZero; decide, value64_one_and_a_half, ?_, ?_⟩ <;> norm_num [abs_of_pos]
theorem witness_RepresentableValuesEncodeExactly :
    value64 0x3FF8000000000000#64 = some (3 / 2) ∧ (3 / 2 : ℚ) = (3 : ℤ) * (2 : ℚ) ^ (-1 : ℤ) ∧ |(3 : ℤ)| < 2 ^ 24 ∧
    (2 : ℚ) ^ (-127 : ℤ) ≤ |3 / 2| ∧ |(3 / 2 : ℚ)| < 2 ^ 129 := by
  refine ⟨value64_one_and_a_half, ?_, ?_, ?_, ?_⟩ <;> norm_num [abs_of_pos]

/-! The CRC's cases. -/

theorem witness_Crc4DividesBitByBit :
    (loaded fun r => { r with crcCfg := 0x1341#16 }).regs.crcCfg.toNat % 128 > 64 ∧
    (loaded fun r => { r with crcCfg := 0x1340#16 }).regs.crcCfg.toNat % 128 = 64 ∧
    (polyString Config.defaultPoly).length = 5 ∧
    (loaded fun r => { r with crcCfg := 0x1305#16, crcIn0 := 0x0013#16 }).regs.crcIn = 0x0000000000000013#64 := by decide
theorem witness_CrcIsThePolynomialRemainder : Config.defaultPoly.getLsbD 4 = true := by decide
theorem witness_SingleBitErrorsChangeTheCrc : 64 ≤ 64 ∧ 63 < 64 ∧ 31 < 32 := by decide
theorem witness_CrcIsLinearInTheData : 16 + 15 < 32 := by decide

/-! The wire block's cases. -/

theorem witness_PackFillsTheWireBlock :
    (loaded fun r => (r.putPayload 0x40B80000#32).putCrcOut 4#4).regs.payload = 0x40B80000#32 ∧
    (loaded fun r => (r.putPayload 0x40B80000#32).putCrcOut 4#4).regs.crcOut = 0x0004#16 := by decide
theorem witness_UnpackValidatesTheWireBlock :
    (0x40B80001#32 : Payload) = tamperedTriple.regs.highWord ++ tamperedTriple.regs.lowWord ∧
    (4#4 : Nibble).toNat = tamperedTriple.regs.crcWord.toNat % 16 ∧
    (7#4 : Nibble) = crc4w ((0x40B80001#32 : Payload).setWidth 64) 32 0b10011#5 := by decide
theorem witness_carries_its_own_crc : Carries tripleOf575 0x40B80000#32 (payloadCrc 0x40B80000#32) := by
  unfold Carries; decide
theorem witness_carries_a_flipped_payload_bit :
    Carries tamperedTriple (0x40B80000#32 ^^^ (1#32 <<< 0)) (payloadCrc 0x40B80000#32) := by unfold Carries; decide
theorem witness_carries_a_flipped_crc_bit :
    Carries (loaded (·.putTriple 0x40B8#16 0x0000#16 0xFFFC#16)) 0x40B80000#32 (payloadCrc 0x40B80000#32 ^^^ (1#4 <<< 3)) := by
  unfold Carries; decide
theorem witness_carries_two_flipped_bits :
    Carries (loaded (·.putTriple 0xC0B9#16 0x0000#16 0x0004#16)) (0x40B80000#32 ^^^ (1#32 <<< 16) ^^^ (1#32 <<< 31))
      (payloadCrc 0x40B80000#32) := by unfold Carries; decide
/-- The clauses of TamperingIsDetected: each premise is met by a theorem above; here one with the instruction named. -/
theorem witness_TamperingIsDetected :
    (Instr.receive = .unpack ∨ Instr.receive = .receive) ∧ 0 < 32 ∧
    Carries tamperedTriple (0x40B80000#32 ^^^ (1#32 <<< 0)) (payloadCrc 0x40B80000#32) :=
  ⟨.inr rfl, by decide, witness_carries_a_flipped_payload_bit⟩
theorem witness_SendEncodesChecksumsAndPacks :
    (withValue 0x4017000000000000#64).regs.value = 0x4017000000000000#64 ∧
    (withValue 0x8000000000000000#64).regs.value = 0x8000000000000000#64 := by decide
theorem witness_SendIsEncodeThenCrcThenPack :
    exec .encode (withValue 0x4017000000000000#64) = .next (after 0x100100001#33 (withValue 0x4017000000000000#64)) ∧
    (after 0x100100001#33 (withValue 0x4017000000000000#64)).regs.status = 0x0000#16 := ⟨rfl, by decide⟩
theorem witness_ReceiveValidatesThenDecodes :
    (0x40B80000#32 : Payload) = tripleOf575.regs.highWord ++ tripleOf575.regs.lowWord ∧
    (4#4 : Nibble).toNat = tripleOf575.regs.crcWord.toNat % 16 ∧
    (4#4 : Nibble) = crc4w ((0x40B80000#32 : Payload).setWidth 64) 32 0b10011#5 ∧
    (0x40B80001#32 : Payload) = tamperedTriple.regs.highWord ++ tamperedTriple.regs.lowWord ∧
    (4#4 : Nibble).toNat = tamperedTriple.regs.crcWord.toNat % 16 ∧
    crc4w ((0x40B80001#32 : Payload).setWidth 64) 32 0b10011#5 ≠ 4#4 ∧
    Carries (loaded id) 0x00000000#32 0x0#4 := by unfold Carries; decide
theorem witness_SentValuesAreReceived :
    exec .send (withValue 0x4017000000000000#64) = .next (after 0x100100006#33 (withValue 0x4017000000000000#64)) ∧
    (after 0x100100006#33 (withValue 0x4017000000000000#64)).regs.status = 0x0000#16 ∧
    tripleOf575.regs.triple = (after 0x100100006#33 (withValue 0x4017000000000000#64)).regs.triple := ⟨rfl, by decide, by decide⟩

/-! The rules of errors and STATUS. -/

/-- Each error code of R220 is reached. -/
theorem witness_ErrorsLeaveResultsAlone :
    Instr.encode.isCommand = true ∧
    statusCode (after 0x100100001#33 (withValue 0x7FF8000000000000#64)).regs.status = 1#3 ∧
    statusCode (after 0x100100007#33 tamperedTriple).regs.status = 2#3 ∧
    statusCode (after 0x100100006#33 (withValue 0x4800000000000000#64)).regs.status = 3#3 ∧
    statusCode (after 0x100100000#33 tripleOf575).regs.status = 4#3 := by decide
theorem witness_EachCommandReportsOneCode :
    (after 0x100100006#33 (withValue 0x4800000000000000#64)).regs.status ≠ 0x0000#16 := by decide
theorem witness_StatusIsNotSticky :
    Instr.receive.isCommand = true ∧ (Instr.write 15#16 0xFFFF#16).isCommand = false ∧
    exec (.write 15#16 0xFFFF#16) tripleOf575 = .next tripleOf575 := ⟨by decide, by decide, rfl⟩
/-- Two states that agree on the operands of RECEIVE and differ elsewhere. -/
theorem witness_CommandsUseOnlyTheirRegisters :
    (∀ g ∈ operands .receive, tripleOf575.regs.get g = { tripleOf575.regs with value0 := 0x1234#16 }.get g) ∧
    tripleOf575.regs ≠ { tripleOf575.regs with value0 := 0x1234#16 } := by decide

end Sys2Proof.Tests
end

section
/-!
PROOFS. The reset event (10_state.md R37, 70_reset_and_hazards.md R250): what a step performs when reset comes next, and
what the registers hold and read after it.
-/

namespace Sys2Proof.Machine

/-- The step that finds reset at the port performs it, with the event taken off (R250). -/
theorem step_of_reset {s : State} {rest : List PortEvent} (h : s.port = .reset :: rest) :
    step s = .next { s with port := rest }.applyReset := by
  rw [step, takeEvent_cons s h]

/-- The table of reset values (R37). -/
theorem Regs.get_reset (g : Reg) : Regs.reset.get g = if g = .crcCfg then 0x1320#16 else 0x0000#16 := by
  cases g <;> rfl

/-- No reset value has a bit outside its register's mask (R36, R37). -/
theorem Regs.get_reset_and_mask (g : Reg) : Regs.reset.get g &&& mask g = Regs.reset.get g := by
  cases g <;> decide

/-- CRC_CFG is the register of number 13 (R22). -/
theorem Reg.number_eq_thirteen_iff (g : Reg) : g.number = 13#16 ↔ g = .crcCfg :=
  ⟨fun h => Reg.number_injective (h : g.number = Reg.crcCfg.number), fun h => h ▸ rfl⟩

/-- What the host reads after reset, at implemented and unimplemented numbers (R37, R51). -/
theorem readReg_reset (a : Word) : readReg Regs.reset a = if a = 13#16 then 0x1320#16 else 0x0000#16 := by
  cases hreg : regAt a with
  | none =>
    have hbig : 17 ≤ a.toNat := (regAt_eq_none_iff a).1 hreg
    have hne : a ≠ 13#16 := by rintro rfl; simp at hbig
    rw [readReg_of_unimplemented _ hbig, if_neg hne]
  | some g =>
    obtain rfl : g.number = a := (regAt_eq_some_iff a g).1 hreg
    rw [readReg_number, Regs.get_reset_and_mask, Regs.get_reset]
    simp only [Reg.number_eq_thirteen_iff]

/-- The fields of CRC_CFG after reset: LEN = 32 (R30, R75). -/
theorem crcLen_reset : Regs.reset.crcLen = 32 := by decide

/-- The fields of CRC_CFG after reset: POLY = `10011` (R30, R75). -/
theorem crcPoly_reset : Regs.reset.crcPoly = 0b10011#5 := by decide

/-- Settles O9: the reset step is known outright, and what is held and read after it follows register by register. -/
theorem resetSetsEveryRegister : Obligations.ResetSetsEveryRegister :=
  ⟨fun _ _ h => ⟨_, step_of_reset h, rfl, rfl⟩, Regs.get_reset, readReg_reset, crcLen_reset, crcPoly_reset⟩

end Sys2Proof.Machine
end

section
/-!
PROOFS. Side effects of the host's accesses (20_memory.md R57): a READ changes nothing, a WRITE outside COMMAND stores at
most one register, and a WRITE to COMMAND runs its command each time it is issued.
-/

namespace Sys2Proof.Machine
open Sys2Proof.Claims

variable (s : State) (r : Regs)

/-! ### A step that finds a transaction at the port -/

/-- The transaction comes off the port and is performed, decoded (R60). -/
theorem step_of_transaction {s : State} {w : Transaction} {rest : List PortEvent}
    (h : s.port = .transaction w :: rest) : step s = exec (decode w) { s with port := rest } := by
  rw [step, takeEvent_cons s h]

/-- The field table of R70 and the model's own layout give the same command write. -/
theorem writeToCommand_eq (c : Word) : writeToCommand c = commandTransaction c := by
  have hc := c.isLt
  apply BitVec.eq_of_toNat_eq
  rw [commandTransaction, htWord_toNat, writeToCommand, BitVec.toNat_ofNat]
  simp only [Config.commandAddr, BitVec.toNat_ofNat]
  omega

/-- A command write decodes to the command its word encodes (R71). -/
@[simp] theorem decode_writeToCommand (c : Word) : decode (writeToCommand c) = decodeCommand c := by
  rw [writeToCommand_eq, commandTransaction, decode]
  simp

/-- A step that finds a command write at the port runs its command (R102). -/
theorem step_of_writeToCommand {s : State} {c : Word} {rest : List PortEvent}
    (h : s.port = .transaction (writeToCommand c) :: rest) :
    step s = exec (decodeCommand c) { s with port := rest } := by
  rw [step_of_transaction h, decode_writeToCommand]

/-! ### How each transaction ends -/

/-- A READ answers its register's value and ends with the registers it found (R100). -/
theorem exec_read (a x : Word) : exec (.read a x) s = s.respond (readReg s.regs a) := rfl

/-- A WRITE outside COMMAND ends with what the register file's write stores (R101). -/
theorem exec_write_of_ne {a : Word} (ha : a ≠ 16#16) (d : Word) :
    exec (.write a d) s = s.finish (writeReg s.regs a d) := if_neg ha

/-! Each command that chooses between endings ends, on either side, in `finish` (`succeed` and `raise` are `finish`). -/

theorem execEncode_finishes : ∃ r, execEncode s = s.finish r := by
  rw [execEncode]
  cases enc32 s.regs.value <;> exact ⟨_, rfl⟩

theorem execCrc4_finishes : ∃ r, execCrc4 s = s.finish r := by
  rw [execCrc4]
  split <;> exact ⟨_, rfl⟩

theorem execUnpack_finishes : ∃ r, execUnpack s = s.finish r := by
  unfold execUnpack
  rcases unpack s.regs.triple with ⟨w, k⟩
  dsimp only
  cases validate w k <;> exact ⟨_, rfl⟩

theorem execSend_finishes : ∃ r, execSend s = s.finish r := by
  rw [execSend]
  cases enc32 s.regs.value <;> exact ⟨_, rfl⟩

theorem execReceive_finishes : ∃ r, execReceive s = s.finish r := by
  unfold execReceive
  rcases unpack s.regs.triple with ⟨w, k⟩
  dsimp only
  cases validate w k <;> exact ⟨_, rfl⟩

/-- Whatever the word, its command runs to the end and returns nothing to the host (R70, R221). -/
theorem exec_decodeCommand_finishes (c : Word) : ∃ r, exec (decodeCommand c) s = s.finish r := by
  rw [decodeCommand]
  split
  · exact ⟨_, rfl⟩
  · split
    · exact execEncode_finishes s
    · exact ⟨_, rfl⟩
    · exact execCrc4_finishes s
    · exact ⟨_, rfl⟩
    · exact execUnpack_finishes s
    · exact execSend_finishes s
    · exact execReceive_finishes s
    · exact ⟨_, rfl⟩

/-- A command completes and leaves the events to come as they are. -/
theorem exec_decodeCommand_keeps_port (c : Word) : ∃ t, exec (decodeCommand c) s = .next t ∧ t.port = s.port := by
  obtain ⟨r, hr⟩ := exec_decodeCommand_finishes s c
  exact ⟨_, hr, rfl⟩

/-! ### What a WRITE outside COMMAND stores -/

/-- The masks as R36 lists them for the registers the host may write. -/
theorem hostMask_number : ∀ g : Reg, g.number.toNat ≤ 14 → hostMask g.number.toNat = mask g := by
  intro g
  cases g <;> decide

/-- A WRITE to 0 to 14 stores its value under the mask in the register it names, and nowhere else (R57, R101). -/
theorem get_writeReg_of_le {a : Word} (ha : a.toNat ≤ 14) (d : Word) (g : Reg) :
    (writeReg r a d).get g = if g.number = a then d &&& hostMask a.toNat else r.get g := by
  rw [get_writeReg]
  by_cases hg : g.number = a
  · subst hg
    have hstored : g ≠ .status ∧ g ≠ .command := by constructor <;> rintro rfl <;> simp [Reg.number] at ha
    rw [if_pos ⟨rfl, hstored⟩, if_pos rfl, hostMask_number g ha]
  · rw [if_neg fun h => hg h.1, if_neg hg]

/-- STATUS is read-only to the host, and an unimplemented number stores nothing (R51, R57). -/
theorem writeReg_of_readOnly {a : Word} (ha : a = 15#16 ∨ 17 ≤ a.toNat) (d : Word) : writeReg r a d = r := by
  obtain rfl | ha := ha
  · rfl
  · rw [writeReg, (regAt_eq_none_iff a).2 ha]

/-! ### R57, sentence by sentence -/

/-- Reads are idempotent: a second READ of a number finds the registers the first found, and returns the same. -/
theorem read_twice (a x y : Word) : ∃ t u, exec (.read a x) s = .next t ∧ t.regs = s.regs ∧
    exec (.read a y) t = .next u ∧ u.readData = t.readData ∧ u.regs = s.regs := by
  simp only [exec_read, respond_eq]
  exact ⟨_, _, rfl, rfl, rfl, rfl, rfl⟩

/-- Two WRITEs of one command word run the command twice, the second time on the state the first run left. -/
theorem step_twice_of_writeToCommand {s : State} {c : Word} {rest : List PortEvent}
    (h : s.port = .transaction (writeToCommand c) :: .transaction (writeToCommand c) :: rest) :
    ∃ t u, step s = .next t ∧ step t = .next u ∧
      exec (decodeCommand c) { s with port := .transaction (writeToCommand c) :: rest } = .next t ∧
      exec (decodeCommand c) { t with port := rest } = .next u := by
  obtain ⟨t, hfirst, hport⟩ :=
    exec_decodeCommand_keeps_port { s with port := .transaction (writeToCommand c) :: rest } c
  obtain ⟨u, hsecond, -⟩ := exec_decodeCommand_keeps_port { t with port := rest } c
  exact ⟨t, u, (step_of_writeToCommand h).trans hfirst, (step_of_writeToCommand hport).trans hsecond, hfirst, hsecond⟩

/-- Settles O15: one lemma for each kind of access; a WRITE outside COMMAND ends with what `writeReg` stores. -/
theorem onlyCommandWritesHaveSideEffects : Obligations.OnlyCommandWritesHaveSideEffects := by
  refine ⟨read_twice, fun s a d ha => ?_, fun s a d ha => ?_, fun s c rest => step_twice_of_writeToCommand⟩
  · have hne : a ≠ 16#16 := by rintro rfl; simp at ha
    exact ⟨_, exec_write_of_ne s hne d, get_writeReg_of_le s.regs ha d⟩
  · have hne : a ≠ 16#16 := by rintro rfl; simp at ha
    exact ⟨_, exec_write_of_ne s hne d, writeReg_of_readOnly s.regs ha d⟩

end Sys2Proof.Machine
end

section
/-!
PROOFS. The decoder against the field tables (30_encoding.md R70 to R73): the number a field table makes is the word
`htWord` lays out, the decoder reads each layout back, and a command word is looked up in the table of R73.
-/

namespace Sys2Proof

/-- The number R70's field table makes of WR, ADDR and DATA is the word the model lays out. -/
theorem ofNat_fields (wr : BitVec 1) (a d : Word) :
    BitVec.ofNat 33 (wr.toNat * 2 ^ 32 + a.toNat * 2 ^ 16 + d.toNat) = htWord wr a d := by
  rw [← htWord_toNat, BitVec.ofNat_toNat, BitVec.setWidth_eq]

/-- The number with WR = 0. -/
theorem ofNat_fields_read (a d : Word) : BitVec.ofNat 33 (a.toNat * 2 ^ 16 + d.toNat) = htWord 0#1 a d := by
  simpa using ofNat_fields 0#1 a d

/-- The number with WR = 1. -/
theorem ofNat_fields_write (a d : Word) :
    BitVec.ofNat 33 (2 ^ 32 + a.toNat * 2 ^ 16 + d.toNat) = htWord 1#1 a d := by
  simpa using ofNat_fields 1#1 a d

/-- R71: every word with WR = 0 is a READ, COMMAND's number included. -/
@[simp] theorem decode_htWord_read (a d : Word) : decode (htWord 0#1 a d) = .read a d := by
  simp [decode]

/-- R71: a word with WR = 1 that does not name COMMAND is a WRITE. -/
theorem decode_htWord_write {a : Word} (ha : a ≠ 16#16) (d : Word) : decode (htWord 1#1 a d) = .write a d := by
  simp [decode, Config.commandAddr, ha]

/-- R72, R76: a command word with a bit set in ZERO is illegal, whatever its OPC. -/
theorem decodeCommand_of_zeroField_ne {c : Word} (h : zeroField c ≠ 0#12) : decodeCommand c = .illegal c :=
  if_pos h

/-- R73: with ZERO = 0 the word itself is the index into the table of commands; 0 and 8 to 15 are illegal. -/
theorem decodeCommand_of_zeroField_eq {c : Word} (h : zeroField c = 0#12) :
    [Instr.illegal c, .encode, .decode, .crc4, .pack, .unpack, .send, .receive].getD c.toNat (.illegal c) =
      decodeCommand c := by
  have hopc : (opcField c).toNat = c.toNat := by
    rw [opcField_toNat, Nat.mod_eq_of_lt ((zeroField_eq_zero_iff c).1 h)]
  rw [decodeCommand, if_neg (not_not.2 h), hopc]
  match c.toNat with
  | 0 | 1 | 2 | 3 | 4 | 5 | 6 | 7 | _ + 8 => rfl

/-- Settles O5: one lemma for each row of R71 and R72, and every word is its own three fields. -/
theorem decodeFollowsTheFieldTables : Obligations.DecodeFollowsTheFieldTables := by
  refine ⟨fun a d => ?_, fun a d ha => ?_, Machine.decode_writeToCommand, fun _ => decodeCommand_of_zeroField_ne,
    fun c h => ⟨(zeroField_eq_zero_iff c).1 h, decodeCommand_of_zeroField_eq h⟩,
    fun t => ⟨wrField t, addrField t, dataField t, toNat_of_fields t⟩⟩
  · rw [ofNat_fields_read, decode_htWord_read]
  · rw [ofNat_fields_write, decode_htWord_write ha]

end Sys2Proof
end

section
/-!
PROOFS. READ, WRITE and the illegal command words (40_host_bus.md R100, R101, R103): which transaction runs each, what a
READ returns register by register, where a WRITE stores, and that an illegal word reaches STATUS alone.
-/

namespace Sys2Proof.Machine
open Sys2Proof.Claims

variable (r : Regs)

/-- A transaction runs as the instruction it decodes to. -/
theorem runsAs_of_decode {w : Transaction} {i : Instr} (h : decode w = i) : RunsAs w i :=
  fun _ _ hport => h ▸ step_of_transaction hport

/-! ### READ -/

/-- The table of readings has no entry from 17 up (R51). -/
theorem hostView_of_ge {n : Nat} (h : 17 ≤ n) : hostView r n = 0x0000#16 := by
  obtain ⟨m, rfl⟩ := Nat.exists_eq_add_of_le' h
  rfl

/-- At an implemented number the table of readings has the register under its mask (R36, R100). -/
theorem hostView_number (g : Reg) : hostView r g.number.toNat = r.get g &&& mask g := by
  cases g <;> simp [hostView, Reg.number, mask, and_allOnes_word]

/-- What the model reads at any number is what the table of R100 lists for it. -/
theorem readReg_eq_hostView (a : Word) : readReg r a = hostView r a.toNat := by
  cases hreg : regAt a with
  | none =>
    have hbig : 17 ≤ a.toNat := (regAt_eq_none_iff a).1 hreg
    rw [readReg_of_unimplemented r hbig, hostView_of_ge r hbig]
  | some g =>
    obtain rfl : g.number = a := (regAt_eq_some_iff a g).1 hreg
    rw [readReg_number, hostView_number]

/-- Settles O12: every word with WR = 0 is a READ, and a READ answers the table's entry. -/
theorem readReturnsTheRegister : Obligations.ReadReturnsTheRegister := by
  refine ⟨fun a x => runsAs_of_decode ?_, fun s a x => ?_, fun x => ?_⟩
  · rw [ofNat_fields_read, decode_htWord_read]
  · rw [exec_read, respond_eq, readReg_eq_hostView]
  · rw [exec_read, State.reset_regs, readReg_reset]
    rfl

/-! ### WRITE -/

/-- A WRITE leaves every register of another number as it was. -/
theorem get_writeReg_of_ne {a : Word} {g : Reg} (hg : g.number ≠ a) (d : Word) : (writeReg r a d).get g = r.get g := by
  rw [get_writeReg, if_neg fun h => hg h.1]

/-- A WRITE to a number leaves the readings of all other numbers as they were. -/
theorem readReg_writeReg_of_ne {a b : Word} (hb : b ≠ a) (d : Word) : readReg (writeReg r a d) b = readReg r b :=
  readReg_congr fun _ hg => get_writeReg_of_ne r (hg ▸ hb) d

/-- What CRC_CFG holds after a WRITE to it (R30, R101). -/
theorem writeReg_crcCfg (d : Word) : (writeReg r 13#16 d).crcCfg = d &&& 0x1F7F#16 := rfl

/-- Settles O13: `get_writeReg` says where a WRITE stores; the registers 0 to 14 and the read-only numbers are its two
cases, and the examples are CRC_CFG's fields cut out of the masked value. -/
theorem writeStoresUnderTheMask : Obligations.WriteStoresUnderTheMask := by
  refine ⟨fun a d ha => runsAs_of_decode ?_, fun s a d ha => ?_, fun s => ?_, fun s => ?_⟩
  · rw [ofNat_fields_write, decode_htWord_write ha]
  · refine ⟨_, exec_write_of_ne s ha d, rfl, rfl, fun g hg hle => ?_, fun hge => ?_,
      fun g hg => get_writeReg_of_ne s.regs hg d, fun b hb => readReg_writeReg_of_ne s.regs hb d⟩
    · exact (get_writeReg_of_le s.regs hle d g).trans (if_pos hg)
    · have hreadOnly : a = 15#16 ∨ 17 ≤ a.toNat := by bv_omega
      exact writeReg_of_readOnly s.regs hreadOnly d
  · refine ⟨_, exec_write_of_ne s (by decide) _, ?_, ?_⟩ <;>
      simp [Regs.crcLen, Regs.crcPoly, writeReg_crcCfg]
  · refine ⟨_, exec_write_of_ne s (by decide) _, ?_, ?_, ?_⟩
    · simp [Regs.crcLen, writeReg_crcCfg]
    · simp [Regs.crcPoly, writeReg_crcCfg]
    · refine (readReg_number _ .crcCfg).trans ?_
      simp [writeReg_crcCfg, mask]

/-! ### ILLEGAL -/

/-- With ZERO = 0, the words from 8 up stand beyond the table of commands (R73, R76). -/
theorem decodeCommand_of_ge_eight {c : Word} (hlo : 8 ≤ c.toNat) (hhi : c.toNat < 16) : decodeCommand c = .illegal c := by
  rw [← decodeCommand_of_zeroField_eq ((zeroField_eq_zero_iff c).2 hhi)]
  exact List.getD_eq_default _ _ hlo

/-- The three kinds of words that R103 lists are illegal. -/
theorem decodeCommand_of_illegal {c : Word}
    (h : c = 0x0000#16 ∨ (0x0008#16 ≤ c ∧ c ≤ 0x000F#16) ∨ c.extractLsb' 4 12 ≠ 0#12) : decodeCommand c = .illegal c := by
  obtain rfl | ⟨hlo, hhi⟩ | hzero := h
  · rfl
  · exact decodeCommand_of_ge_eight (by bv_omega) (by bv_omega)
  · exact decodeCommand_of_zeroField_ne hzero

/-- Settles O17: an illegal word decodes to ILLEGAL, which only raises ILLEGAL_COMMAND. -/
theorem illegalCommandOnlySetsStatus : Obligations.IllegalCommandOnlySetsStatus := by
  refine ⟨fun c hc => runsAs_of_decode ?_, fun c s => ?_⟩
  · rw [decode_writeToCommand, decodeCommand_of_illegal hc]
  · obtain ⟨t, hraise, hstatus, hdata, hframe⟩ := raise_spec s .illegalCommand
    exact ⟨t, hraise, ⟨hstatus, hdata⟩, hframe⟩

end Sys2Proof.Machine
end

section
/-!
PROOFS. The one form that every command has (40_host_bus.md R102, 30_encoding.md R74): its operand registers fix which of
its result registers it overwrites and with which words, and it then reports in STATUS. That no command writes a register
it also reads follows from this form and the table of operands and results.
-/

namespace Sys2Proof.Machine
open Sys2Proof.Claims

/-! ### Overwriting registers -/

/-- `o` overwrites the registers of `ws` with words that do not depend on the registers it finds, and no others. -/
def Overwrites (ws : List Reg) (o : Regs → Regs) : Prop :=
  ∀ r r' g, (o r).get g = if g ∈ ws then (o r').get g else r.get g

theorem overwrites_nothing : Overwrites [] id := fun _ _ _ => rfl

/-- A store overwrites its register (R36). -/
theorem overwrites_put (g : Reg) (v : Word) : Overwrites [g] (·.put g v) := by
  intro r r' h
  simp only [Regs.get_put, List.mem_singleton, eq_comm (a := h)]
  split <;> rfl

/-- One overwriting after another overwrites the registers of both. -/
theorem Overwrites.andThen {ws ws' : List Reg} {o o' : Regs → Regs} (h : Overwrites ws o) (h' : Overwrites ws' o') :
    Overwrites (ws ++ ws') fun r => o' (o r) := by
  intro r r' g
  show (o' (o r)).get g = if g ∈ ws ++ ws' then (o' (o r')).get g else r.get g
  rw [h' (o r) (o r') g]
  by_cases hlast : g ∈ ws'
  · simp [hlast]
  · have hkept : (o' (o r')).get g = (o r').get g := (h' (o r') r' g).trans (if_neg hlast)
    rw [if_neg hlast, hkept, h r r' g]
    simp [hlast]

theorem overwrites_putPayload (w : Payload) : Overwrites [.payloadHi, .payloadLo] (·.putPayload w) :=
  (overwrites_put .payloadHi _).andThen (overwrites_put .payloadLo _)

theorem overwrites_putValue (y : Word64) : Overwrites [.value3, .value2, .value1, .value0] (·.putValue y) :=
  (((overwrites_put .value3 _).andThen (overwrites_put .value2 _)).andThen (overwrites_put .value1 _)).andThen
    (overwrites_put .value0 _)

theorem overwrites_putCrcOut (c : Nibble) : Overwrites [.crcOut] (·.putCrcOut c) := overwrites_put .crcOut _

theorem overwrites_putTriple (h l k : Word) : Overwrites [.highWord, .lowWord, .crcWord] (·.putTriple h l k) :=
  ((overwrites_put .highWord _).andThen (overwrites_put .lowWord _)).andThen (overwrites_put .crcWord _)

theorem overwrites_report (k c : Nibble) (e : ResultCode) : Overwrites [.status] (·.report k c e) :=
  overwrites_put .status _

/-! ### The form of a command -/

/-- What the operand registers of `i` hold in `r` fixes an overwriting of result registers of `i` and a report; wherever
the operand registers hold the same, `i` ends with exactly these. -/
def ReportsFromOperands (i : Instr) : Prop :=
  ∀ r : Regs, ∃ ws o k c e, Overwrites ws o ∧ (∀ g ∈ ws, g ∈ results i) ∧
    ∀ s : State, (∀ g ∈ operands i, s.regs.get g = r.get g) → exec i s = s.finish ((o s.regs).report k c e)

/-! A view is the same where the registers it is made of hold the same (R23). -/

theorem value_congr {r r' : Regs} (h : ∀ g ∈ operands .encode, r.get g = r'.get g) : r.value = r'.value := by
  simp_all [operands, Regs.value]

theorem payload_congr {r r' : Regs} (h : ∀ g ∈ operands .decode, r.get g = r'.get g) : r.payload = r'.payload := by
  simp_all [operands, Regs.payload]

theorem triple_congr {r r' : Regs} (h : ∀ g ∈ operands .unpack, r.get g = r'.get g) : r.triple = r'.triple := by
  simp_all [operands, Regs.triple]

theorem encode_reportsFromOperands : ReportsFromOperands .encode := by
  intro r
  cases hres : enc32 r.value with
  | ok w =>
    refine ⟨_, _, 0#4, 0#4, .ok, overwrites_putPayload w, by simp [results], fun s h => ?_⟩
    simp [exec, execEncode, value_congr h, hres, State.succeed]
  | err e =>
    refine ⟨_, _, 0#4, 0#4, e, overwrites_nothing, by simp, fun s h => ?_⟩
    simp [exec, execEncode, value_congr h, hres, State.raise]

theorem decode_reportsFromOperands : ReportsFromOperands .decode := by
  intro r
  refine ⟨_, _, 0#4, 0#4, .ok, overwrites_putValue (dec32 r.payload), by simp [results], fun s h => ?_⟩
  simp [exec, execDecode, payload_congr h, State.succeed]

theorem crc4_reportsFromOperands : ReportsFromOperands .crc4 := by
  intro r
  have hviews : ∀ s : State, (∀ g ∈ operands .crc4, s.regs.get g = r.get g) →
      s.regs.crcIn = r.crcIn ∧ s.regs.crcLen = r.crcLen ∧ s.regs.crcPoly = r.crcPoly := by
    intro s h
    simp_all [operands, Regs.crcIn, Regs.crcLen, Regs.crcPoly]
  by_cases hlen : r.crcLen > Config.crcMaxLen
  · refine ⟨_, _, 0#4, 0#4, .invalidInput, overwrites_nothing, by simp, fun s h => ?_⟩
    obtain ⟨-, hl, -⟩ := hviews s h
    simp [exec, execCrc4, hl, hlen, State.raise]
  · refine ⟨_, _, 0#4, 0#4, .ok, overwrites_putCrcOut (crc4w r.crcIn r.crcLen r.crcPoly), by simp [results],
      fun s h => ?_⟩
    obtain ⟨hd, hl, hp⟩ := hviews s h
    simp [exec, execCrc4, hd, hl, hp, hlen, State.succeed]

/-- The wire block that PACK and SEND write (R180). -/
theorem overwrites_packed (w : Payload) (c : Nibble) :
    Overwrites [.highWord, .lowWord, .crcWord] fun r => r.putTriple (pack w c).high (pack w c).low (pack w c).crc :=
  overwrites_putTriple _ _ _

theorem pack_reportsFromOperands : ReportsFromOperands .pack := by
  intro r
  refine ⟨_, _, 0#4, 0#4, .ok, overwrites_packed r.payload r.crcOutNibble, by simp [results], fun s h => ?_⟩
  have hpayload : s.regs.payload = r.payload := payload_congr fun g hg => h g (List.mem_append_left [Reg.crcOut] hg)
  have hcrc : s.regs.crcOutNibble = r.crcOutNibble := by simp_all [operands, Regs.crcOutNibble]
  simp [exec, execPack, hpayload, hcrc, State.succeed]

/-- What UNPACK and RECEIVE write whether the CRCs agree or not, and SEND with the CRC it computed (R184, R200, R201). -/
theorem overwrites_unpacked (w : Payload) (k : Nibble) :
    Overwrites [.payloadHi, .payloadLo, .crcOut] fun r => (r.putPayload w).putCrcOut k :=
  (overwrites_putPayload w).andThen (overwrites_putCrcOut k)

/-! The two endings of UNPACK and of RECEIVE, by what validate answers. Its answer is put in by `rw`, since `simp` would
run the CRC in order to choose the branch. -/

section
variable {s : State} {w : Payload} {k k' c : Nibble} (hunpacked : unpack s.regs.triple = (w, k))
include hunpacked

/-- UNPACK on a match (R184). -/
theorem exec_unpack_of_ok (hval : validate w k = .ok c) :
    exec .unpack s = s.finish (((s.regs.putPayload w).putCrcOut k).report k c .ok) := by
  show execUnpack s = _
  unfold execUnpack
  rewrite [hunpacked]
  dsimp only
  rw [hval]

/-- UNPACK on a mismatch (R184). -/
theorem exec_unpack_of_mismatch (hval : validate w k = .mismatch c k') :
    exec .unpack s = s.finish (((s.regs.putPayload w).putCrcOut k).report k' c .checksumMismatch) := by
  show execUnpack s = _
  unfold execUnpack
  rewrite [hunpacked]
  dsimp only
  rw [hval]

/-- RECEIVE on a match (R201). -/
theorem exec_receive_of_ok (hval : validate w k = .ok c) :
    exec .receive s =
      s.finish ((((s.regs.putPayload w).putCrcOut k).putValue (dec32 w)).report k c .ok) := by
  show execReceive s = _
  unfold execReceive
  rewrite [hunpacked]
  dsimp only
  rw [hval]

/-- RECEIVE on a mismatch (R201). -/
theorem exec_receive_of_mismatch (hval : validate w k = .mismatch c k') :
    exec .receive s = s.finish (((s.regs.putPayload w).putCrcOut k).report k' c .checksumMismatch) := by
  show execReceive s = _
  unfold execReceive
  rewrite [hunpacked]
  dsimp only
  rw [hval]

end

theorem unpack_reportsFromOperands : ReportsFromOperands .unpack := by
  intro r
  rcases hunpacked : unpack r.triple with ⟨w, k⟩
  cases hval : validate w k with
  | ok c =>
    refine ⟨_, _, k, c, .ok, overwrites_unpacked w k, by simp [results], fun s h => ?_⟩
    exact exec_unpack_of_ok ((congrArg unpack (triple_congr h)).trans hunpacked) hval
  | mismatch c k' =>
    refine ⟨_, _, k', c, .checksumMismatch, overwrites_unpacked w k, by simp [results], fun s h => ?_⟩
    exact exec_unpack_of_mismatch ((congrArg unpack (triple_congr h)).trans hunpacked) hval

theorem send_reportsFromOperands : ReportsFromOperands .send := by
  intro r
  cases hres : enc32 r.value with
  | ok w =>
    refine ⟨_, _, 0#4, 0#4, .ok,
      (overwrites_unpacked w (payloadCrc w)).andThen (overwrites_packed w (payloadCrc w)), by simp [results],
      fun s h => ?_⟩
    simp [exec, execSend, value_congr h, hres, State.succeed]
  | err e =>
    refine ⟨_, _, 0#4, 0#4, e, overwrites_nothing, by simp, fun s h => ?_⟩
    simp [exec, execSend, value_congr h, hres, State.raise]

theorem receive_reportsFromOperands : ReportsFromOperands .receive := by
  intro r
  rcases hunpacked : unpack r.triple with ⟨w, k⟩
  cases hval : validate w k with
  | ok c =>
    refine ⟨_, _, k, c, .ok, (overwrites_unpacked w k).andThen (overwrites_putValue (dec32 w)), by simp [results],
      fun s h => ?_⟩
    exact exec_receive_of_ok ((congrArg unpack (triple_congr h)).trans hunpacked) hval
  | mismatch c k' =>
    refine ⟨_, _, k', c, .checksumMismatch, overwrites_unpacked w k, by simp [results], fun s h => ?_⟩
    exact exec_receive_of_mismatch ((congrArg unpack (triple_congr h)).trans hunpacked) hval

theorem illegal_reportsFromOperands (c : Word) : ReportsFromOperands (.illegal c) := fun _ =>
  ⟨_, _, 0#4, 0#4, .illegalCommand, overwrites_nothing, by simp, fun _ _ => rfl⟩

/-- Every command word's command has the form. -/
theorem decodeCommand_reportsFromOperands (c : Word) : ReportsFromOperands (decodeCommand c) := by
  rw [decodeCommand]
  split
  · exact illegal_reportsFromOperands c
  · split
    · exact encode_reportsFromOperands
    · exact decode_reportsFromOperands
    · exact crc4_reportsFromOperands
    · exact pack_reportsFromOperands
    · exact unpack_reportsFromOperands
    · exact send_reportsFromOperands
    · exact receive_reportsFromOperands
    · exact illegal_reportsFromOperands c

/-! ### What follows from the form -/

/-- No command's operand register is one of its result registers, nor STATUS (the table of R74). -/
theorem not_mem_results_of_mem_operands (i : Instr) {g : Reg} (h : g ∈ operands i) : g ∉ results i ∧ g ≠ .status := by
  revert g
  cases i <;> simp [operands, results]

/-- A register that a command changes is no operand of it. -/
theorem ReportsFromOperands.not_mem_operands {i : Instr} (hform : ReportsFromOperands i) {s t : State} {g : Reg}
    (hrun : exec i s = .next t) (hchanged : t.regs.get g ≠ s.regs.get g) : g ∉ operands i := by
  intro hg
  obtain ⟨hresult, hstatus⟩ := not_mem_results_of_mem_operands i hg
  obtain ⟨ws, o, k, c, e, hover, hsub, hruns⟩ := hform s.regs
  cases (hruns s fun _ _ => rfl).symm.trans hrun
  apply hchanged
  show ((o s.regs).report k c e).get g = _
  rw [get_report, if_neg hstatus, hover s.regs s.regs, if_neg fun hmem => hresult (hsub g hmem)]

/-- Two states that agree on a command's operands: each register ends the same in both, or as it was in both. -/
theorem ReportsFromOperands.same_or_kept {i : Instr} (hform : ReportsFromOperands i) {s s' : State}
    (hagree : ∀ g ∈ operands i, s.regs.get g = s'.regs.get g) : ∃ t t', exec i s = .next t ∧ exec i s' = .next t' ∧
      ∀ g, t.regs.get g = t'.regs.get g ∨ (t.regs.get g = s.regs.get g ∧ t'.regs.get g = s'.regs.get g) := by
  obtain ⟨ws, o, k, c, e, hover, -, hruns⟩ := hform s'.regs
  refine ⟨_, _, hruns s hagree, hruns s' fun _ _ => rfl, fun g => ?_⟩
  have hall := hover.andThen (overwrites_report k c e)
  by_cases hwritten : g ∈ ws ++ [.status]
  · exact .inl ((hall s.regs s'.regs g).trans (if_pos hwritten))
  · exact .inr ⟨(hall s.regs s'.regs g).trans (if_neg hwritten), (hall s'.regs s.regs g).trans (if_neg hwritten)⟩

/-- A command completes, keeps the events to come, returns nothing to the host, and leaves its report in STATUS. -/
theorem ReportsFromOperands.ends {i : Instr} (hform : ReportsFromOperands i) (s : State) :
    ∃ t k c e, exec i s = .next t ∧ t.port = s.port ∧ t.readData = none ∧ t.regs.status = statusWord k c e := by
  obtain ⟨ws, o, k, c, e, -, -, hruns⟩ := hform s.regs
  exact ⟨_, k, c, e, hruns s fun _ _ => rfl, rfl, rfl, report_status _ _ _ _⟩

/-- R102's example: DECODE of the payload of 5.75. -/
theorem exec_decode_example {s : State} (h : s.regs.payload = 0x40B80000#32) :
    ∃ t, exec .decode s = .next t ∧ t.regs.value = 0x4017000000000000#64 ∧ t.regs.status = 0x0000#16 := by
  have hvalue : dec32 s.regs.payload = 0x4017000000000000#64 := by rw [h]; decide
  refine ⟨_, rfl, ?_, report_status _ _ _ _⟩
  rw [report_value, putValue_value, hvalue]

/-- Settles O44: the step runs the command its word encodes, and the form of that command gives completion, the report in
STATUS, and that a register it changes is none that it reads. -/
theorem commandWriteRunsItsCommand : Obligations.CommandWriteRunsItsCommand := by
  refine ⟨fun c _ _ hport => step_of_writeToCommand hport, fun c s rest hport => ?_, fun s rest hport hpayload => ?_,
    fun c g s₀ t₀ rest₀ hport₀ hstep₀ hchanged s s' rest hport hport' hagree => ?_⟩
  · rw [step_of_writeToCommand hport]
    obtain ⟨t, k, computed, code, hrun, hrest, hdata, hstatus⟩ :=
      (decodeCommand_reportsFromOperands c).ends { s with port := rest }
    exact ⟨t, k, computed, code, hrun, hrest, hdata, hstatus⟩
  · rw [step_of_writeToCommand hport]
    exact exec_decode_example (s := { s with port := rest }) hpayload
  · have hform := decodeCommand_reportsFromOperands c
    rw [step_of_writeToCommand hport₀] at hstep₀
    have hunread : g ∉ operands (decodeCommand c) := hform.not_mem_operands hstep₀ hchanged
    have hoperands : ∀ h ∈ operands (decodeCommand c), s.regs.get h = s'.regs.get h :=
      fun h hh => hagree h fun e => hunread (e ▸ hh)
    rw [step_of_writeToCommand hport, step_of_writeToCommand hport']
    obtain ⟨t, t', hrun, hrun', hsame⟩ :=
      hform.same_or_kept (s := { s with port := rest }) (s' := { s' with port := rest }) hoperands
    refine ⟨t, t', hrun, hrun', fun h hne => ?_, hsame g⟩
    obtain heq | ⟨hkept, hkept'⟩ := hsame h
    · exact heq
    · exact hkept.trans ((hagree h hne).trans hkept'.symm)

end Sys2Proof.Machine
end

section
/-!
PROOFS. The real a binary64 word stands for (00_scope.md R10): the word's three fields as numbers, value64 by the class of
the word, and the scientific form of every finite word but ±0.0, which fixes sign, significand and exponent.
-/

namespace Sys2Proof.Machine
open Sys2Proof.Claims

/-! ### The three fields of a word -/

/-- The biased exponent, bits 62:52. -/
def expField (x : Word64) : ℕ := (x.extractLsb' 52 11).toNat

/-- The fraction, bits 51:0. -/
def fracField (x : Word64) : ℕ := (x.extractLsb' 0 52).toNat

/-- The sign of the real: -1 when bit 63 is set. -/
def signFactor (x : Word64) : ℚ := if x.getLsbD 63 then -1 else 1

theorem expField_eq (x : Word64) : expField x = x.toNat / 2 ^ 52 % 2 ^ 11 := by
  simp [expField, BitVec.extractLsb'_toNat, Nat.shiftRight_eq_div_pow]

theorem fracField_eq (x : Word64) : fracField x = x.toNat % 2 ^ 52 := by
  simp [fracField, BitVec.extractLsb'_toNat]

theorem expField_lt (x : Word64) : expField x < 2 ^ 11 := (x.extractLsb' 52 11).isLt

theorem fracField_lt (x : Word64) : fracField x < 2 ^ 52 := (x.extractLsb' 0 52).isLt

theorem fracField_div_lt_one (x : Word64) : (fracField x : ℚ) / 2 ^ 52 < 1 :=
  (div_lt_one (by positivity)).2 (by exact_mod_cast fracField_lt x)

/-- The sign bit as a number. -/
theorem toNat_signBit (x : Word64) : (x.getLsbD 63).toNat = x.toNat / 2 ^ 63 := by
  rw [BitVec.getLsbD, Nat.toNat_testBit]
  omega

theorem toNat_of_word64_fields (x : Word64) :
    x.toNat = (x.getLsbD 63).toNat * 2 ^ 63 + expField x * 2 ^ 52 + fracField x := by
  rw [toNat_signBit, expField_eq, fracField_eq]
  omega

/-- The three fields determine the word. -/
theorem word64_ext {x y : Word64} (hs : x.getLsbD 63 = y.getLsbD 63) (he : expField x = expField y)
    (hf : fracField x = fracField y) : x = y := by
  apply BitVec.eq_of_toNat_eq
  rw [toNat_of_word64_fields x, toNat_of_word64_fields y, hs, he, hf]

theorem signFactor_cases (x : Word64) :
    signFactor x = 1 ∧ x.getLsbD 63 = false ∨ signFactor x = -1 ∧ x.getLsbD 63 = true := by
  rw [signFactor]
  cases x.getLsbD 63 <;> simp

theorem notFinite_iff (x : Word64) : NotFinite x ↔ expField x = 2047 := by
  rw [NotFinite, ← BitVec.toNat_inj]
  rfl

theorem isZero_iff (x : Word64) : IsZero x ↔ expField x = 0 ∧ fracField x = 0 := by
  rw [IsZero, ← BitVec.toNat_inj, expField_eq, fracField_eq]
  simp only [BitVec.extractLsb'_toNat, Nat.shiftRight_zero, BitVec.toNat_ofNat]
  omega

/-! ### value64 by the class of the word -/

theorem value64_of_notFinite {x : Word64} (h : NotFinite x) : value64 x = none :=
  if_pos ((notFinite_iff x).1 h)

theorem value64_of_subnormal {x : Word64} (he : expField x = 0) :
    value64 x = some (signFactor x * (fracField x / 2 ^ 52) * (2 : ℚ) ^ (-1022 : ℤ)) := by
  rw [expField] at he
  simp [value64, he, signFactor, fracField]

theorem value64_of_normal {x : Word64} (hfin : ¬ NotFinite x) (he : expField x ≠ 0) :
    value64 x = some (signFactor x * (1 + fracField x / 2 ^ 52) * (2 : ℚ) ^ ((expField x : ℤ) - 1023)) :=
  (if_neg (mt (notFinite_iff x).2 hfin)).trans (if_neg he)

theorem value64_of_isZero {x : Word64} (h : IsZero x) : value64 x = some 0 := by
  obtain ⟨he, hf⟩ := (isZero_iff x).1 h
  simp [value64_of_subnormal he, hf]

theorem not_notFinite_of_value64 {x : Word64} {v : ℚ} (h : value64 x = some v) : ¬ NotFinite x := fun hn => by
  cases (value64_of_notFinite hn).symm.trans h

theorem not_isZero_of_value64 {x : Word64} {v : ℚ} (h : value64 x = some v) (hv : v ≠ 0) : ¬ IsZero x := fun hz =>
  hv (Option.some.inj (h.symm.trans (value64_of_isZero hz)))

/-! ### Scientific form -/

/-- A real with significand `m` in [1, 2) is at least 2^j exactly when its exponent is at least `j`. -/
theorem two_zpow_le_mul_zpow_iff {m : ℚ} (h1 : 1 ≤ m) (h2 : m < 2) (j k : ℤ) :
    (2 : ℚ) ^ j ≤ m * 2 ^ k ↔ j ≤ k := by
  have hpos : (0 : ℚ) < 2 ^ k := by positivity
  constructor
  · intro h
    have hlt : (2 : ℚ) ^ j < 2 ^ (k + 1) := by
      calc (2 : ℚ) ^ j ≤ m * 2 ^ k := h
        _ < 2 * 2 ^ k := by gcongr
        _ = 2 ^ (k + 1) := by rw [zpow_add_one₀ (by norm_num), mul_comm]
    exact Int.lt_add_one_iff.1 ((zpow_lt_zpow_iff_right₀ (by norm_num)).1 hlt)
  · intro h
    calc (2 : ℚ) ^ j ≤ 2 ^ k := zpow_le_zpow_right₀ (by norm_num) h
      _ ≤ m * 2 ^ k := le_mul_of_one_le_left hpos.le h1

/-- Significand and exponent of a positive real are unique. -/
theorem significand_exponent_unique {m m' : ℚ} {k k' : ℤ} (h1 : 1 ≤ m) (h2 : m < 2) (h1' : 1 ≤ m') (h2' : m' < 2)
    (h : m * 2 ^ k = m' * 2 ^ k') : m = m' ∧ k = k' := by
  have hle := (two_zpow_le_mul_zpow_iff h1' h2' k k').1 (h ▸ (two_zpow_le_mul_zpow_iff h1 h2 k k).2 le_rfl)
  have hge := (two_zpow_le_mul_zpow_iff h1 h2 k' k).1 (h ▸ (two_zpow_le_mul_zpow_iff h1' h2' k' k').2 le_rfl)
  obtain rfl : k = k' := le_antisymm hle hge
  exact ⟨mul_right_cancel₀ (by positivity) h, rfl⟩

/-- The word `x` stands for `m * 2^k` with its sign, `m` in [1, 2) and `k` within the 1074 turns of R258. A subnormal
word has a small exponent, and a normal one has `m` and `k` in its fields. -/
structure ScientificForm (x : Word64) (m : ℚ) (k : ℤ) : Prop where
  value : value64 x = some (signFactor x * (m * 2 ^ k))
  one_le : 1 ≤ m
  lt_two : m < 2
  exponent_bound : k.natAbs ≤ 1074
  subnormal : expField x = 0 → k < -1022
  normal : expField x ≠ 0 → k = (expField x : ℤ) - 1023 ∧ m = 1 + (fracField x : ℚ) / 2 ^ 52

theorem scientificForm_of_normal {x : Word64} (hfin : ¬ NotFinite x) (he : expField x ≠ 0) :
    ScientificForm x (1 + (fracField x : ℚ) / 2 ^ 52) ((expField x : ℤ) - 1023) where
  value := by rw [value64_of_normal hfin he, mul_assoc]
  one_le := le_add_of_nonneg_right (by positivity)
  lt_two := by linarith [fracField_div_lt_one x]
  exponent_bound := by
    have := expField_lt x
    omega
  subnormal h := absurd h he
  normal _ := ⟨rfl, rfl⟩

/-- A subnormal's fraction is normalised at its leading bit; its unit is 2^-1074. -/
theorem scientificForm_of_subnormal {x : Word64} (he : expField x = 0) (hf : fracField x ≠ 0) :
    ScientificForm x (fracField x / 2 ^ (fracField x).log2) ((fracField x).log2 - 1074) := by
  have hlog : (fracField x).log2 < 52 := (Nat.log2_lt hf).2 (fracField_lt x)
  have hunit : (2 : ℚ) ^ (-1074 : ℤ) = 2 ^ (-1022 : ℤ) / 2 ^ 52 := by
    rw [show (-1074 : ℤ) = -1022 - (52 : ℕ) by norm_num, zpow_sub₀ two_ne_zero, zpow_natCast]
  refine ⟨?_, ?_, ?_, by omega, fun _ => by omega, fun h => absurd he h⟩
  · rw [value64_of_subnormal he, sub_eq_add_neg, zpow_add₀ two_ne_zero, zpow_natCast, hunit]
    field_simp
  · rw [one_le_div (by positivity)]
    exact_mod_cast Nat.log2_self_le hf
  · rw [div_lt_iff₀ (by positivity)]
    exact_mod_cast (pow_succ' 2 (fracField x).log2) ▸ Nat.lt_log2_self

theorem exists_scientificForm {x : Word64} (hfin : ¬ NotFinite x) (hzero : ¬ IsZero x) :
    ∃ m k, ScientificForm x m k := by
  by_cases he : expField x = 0
  · exact ⟨_, _, scientificForm_of_subnormal he fun hf => hzero ((isZero_iff x).2 ⟨he, hf⟩)⟩
  · exact ⟨_, _, scientificForm_of_normal hfin he⟩

section
variable {x : Word64} {m : ℚ} {k : ℤ} (hx : ScientificForm x m k)
include hx

theorem ScientificForm.pos : 0 < m * 2 ^ k := by
  have := hx.one_le
  positivity

theorem ScientificForm.abs_value : |signFactor x * (m * 2 ^ k)| = m * 2 ^ k := by
  rw [abs_mul, abs_of_pos hx.pos]
  obtain ⟨h, -⟩ | ⟨h, -⟩ := signFactor_cases x <;> simp [h]

theorem ScientificForm.value_ne_zero : signFactor x * (m * 2 ^ k) ≠ 0 :=
  abs_pos.1 (hx.abs_value.symm ▸ hx.pos)

theorem ScientificForm.value_neg_iff : signFactor x * (m * 2 ^ k) < 0 ↔ x.getLsbD 63 = true := by
  obtain ⟨h, hb⟩ | ⟨h, hb⟩ := signFactor_cases x
  · simp only [h, hb, one_mul, hx.pos.not_gt, Bool.false_eq_true]
  · simp only [h, hb, neg_one_mul, neg_lt_zero, hx.pos]

theorem ScientificForm.not_notFinite : ¬ NotFinite x := not_notFinite_of_value64 hx.value

theorem ScientificForm.not_isZero : ¬ IsZero x := not_isZero_of_value64 hx.value hx.value_ne_zero

/-- From 2^-1022 up the fields hold significand and exponent. -/
theorem ScientificForm.fields_of_le (hk : -1022 ≤ k) :
    k = (expField x : ℤ) - 1023 ∧ m = 1 + (fracField x : ℚ) / 2 ^ 52 :=
  hx.normal fun he => (hx.subnormal he).not_ge hk

/-- The biased exponent of R120 step 3 leaves 0..255 exactly where the word's own exponent field leaves 896..1151. -/
theorem ScientificForm.exponent_out_iff : k < -127 ∨ 128 < k ↔ expField x < 896 ∨ 1151 < expField x := by
  by_cases he : expField x = 0
  · have := hx.subnormal he
    omega
  · obtain ⟨hk, -⟩ := hx.normal he
    omega

/-- R122's range of magnitudes is a range of exponents. -/
theorem ScientificForm.outOfRange_iff : OutOfRange x ↔ k < -127 ∨ 128 < k := by
  have hmagnitude : OutOfRange x ↔ 2 ^ (129 : ℤ) ≤ m * 2 ^ k ∨ m * 2 ^ k < 2 ^ (-127 : ℤ) := by
    constructor
    · rintro ⟨v, hv, -, h⟩
      cases hx.value.symm.trans hv
      rwa [hx.abs_value] at h
    · intro h
      refine ⟨_, hx.value, hx.value_ne_zero, ?_⟩
      rwa [hx.abs_value]
  rw [hmagnitude, ← not_le (a := (2 : ℚ) ^ (-127 : ℤ)), two_zpow_le_mul_zpow_iff hx.one_le hx.lt_two,
    two_zpow_le_mul_zpow_iff hx.one_le hx.lt_two]
  omega

/-- No other word has the value of a normal word. -/
theorem ScientificForm.eq_of_value64_eq (hk : -1022 ≤ k) {y : Word64} (h : value64 y = value64 x) : y = x := by
  rw [hx.value] at h
  obtain ⟨m', k', hy⟩ := exists_scientificForm (not_notFinite_of_value64 h) (not_isZero_of_value64 h hx.value_ne_zero)
  have hval : signFactor y * (m' * 2 ^ k') = signFactor x * (m * 2 ^ k) := Option.some.inj (hy.value.symm.trans h)
  have habs : m' * 2 ^ k' = m * 2 ^ k := by rw [← hy.abs_value, hval, hx.abs_value]
  obtain ⟨rfl, rfl⟩ := significand_exponent_unique hy.one_le hy.lt_two hx.one_le hx.lt_two habs
  obtain ⟨hkx, hmx⟩ := hx.fields_of_le hk
  obtain ⟨hky, hmy⟩ := hy.fields_of_le hk
  refine word64_ext (Bool.eq_iff_iff.2 ?_) (by omega) ?_
  · rw [← hx.value_neg_iff, ← hy.value_neg_iff, hval]
  · have hdiv : (fracField y : ℚ) / 2 ^ 52 = fracField x / 2 ^ 52 := add_left_cancel (hmy.symm.trans hmx)
    exact_mod_cast (div_left_inj' (by positivity)).1 hdiv

end

end Sys2Proof.Machine
end

section
/-!
PROOFS. ENCODE (41_float_codec.md R120, R122, R123): what each loop of the source's algorithm computes, that the algorithm
and the closed form answer the same for each class of words, and how the command ends.
-/

namespace Sys2Proof.Machine
open Sys2Proof.Claims

/-! ### The loops of R120 -/

theorem halveLoop_of_lt {m : ℚ} (h : m < 2) (fuel : ℕ) (e : ℤ) : halveLoop (fuel + 1) m e = some (m, e) :=
  if_neg h.not_ge

theorem doubleLoop_of_ge {m : ℚ} (h : 1 ≤ m) (fuel : ℕ) (e : ℤ) : doubleLoop (fuel + 1) m e = some (m, e) :=
  if_neg h.not_gt

/-- R120 step 2, first loop: it undoes `n` doublings of a significand in [1, 2). -/
theorem halveLoop_mul_pow {m : ℚ} (h1 : 1 ≤ m) (h2 : m < 2) (n fuel : ℕ) (e : ℤ) :
    halveLoop (n + fuel + 1) (m * 2 ^ n) e = some (m, e + n) := by
  induction n generalizing e with
  | zero => simpa using halveLoop_of_lt h2 (0 + fuel) e
  | succ n ih =>
    have hge : (2 : ℚ) ≤ m * 2 ^ (n + 1) := by
      have hzpow := (two_zpow_le_mul_zpow_iff h1 h2 1 (n + 1 : ℕ)).2 (by omega)
      rwa [zpow_one, zpow_natCast] at hzpow
    have hhalf : m * 2 ^ (n + 1) / 2 = m * 2 ^ n := by ring
    rw [show n + 1 + fuel + 1 = n + fuel + 1 + 1 by omega, halveLoop, if_pos hge, hhalf, ih]
    push_cast
    ring_nf

/-- R120 step 2, second loop: it undoes `n` halvings of a significand in [1, 2). -/
theorem doubleLoop_div_pow {m : ℚ} (h1 : 1 ≤ m) (h2 : m < 2) (n fuel : ℕ) (e : ℤ) :
    doubleLoop (n + fuel + 1) (m / 2 ^ n) e = some (m, e - n) := by
  induction n generalizing e with
  | zero => simpa using doubleLoop_of_ge h1 (0 + fuel) e
  | succ n ih =>
    have hlt : m / 2 ^ (n + 1) < 1 := by
      have : (1 : ℚ) ≤ 2 ^ n := one_le_pow₀ (by norm_num)
      rw [div_lt_one (by positivity), pow_succ]
      linarith
    have hdouble : m / 2 ^ (n + 1) * 2 = m / 2 ^ n := by
      rw [pow_succ]
      field_simp
    rw [show n + 1 + fuel + 1 = n + fuel + 1 + 1 by omega, doubleLoop, if_pos hlt, hdouble, ih]
    push_cast
    ring_nf

/-- R120 step 2: the two loops, one after the other, find significand and exponent. -/
theorem loops_normalise {m : ℚ} (h1 : 1 ≤ m) (h2 : m < 2) {k : ℤ} {fuel : ℕ} (hfuel : k.natAbs < fuel) :
    ∃ p, halveLoop fuel (m * 2 ^ k) 0 = some p ∧ doubleLoop fuel p.1 p.2 = some (m, k) := by
  obtain ⟨f, rfl⟩ := Nat.exists_eq_add_of_lt hfuel
  obtain ⟨n, rfl | rfl⟩ := k.eq_nat_or_neg
  · refine ⟨(m, n), ?_, doubleLoop_of_ge h1 _ _⟩
    rw [Int.natAbs_natCast, zpow_natCast, halveLoop_mul_pow h1 h2, zero_add]
  · have hlt : m / 2 ^ n < 2 := (div_le_self (by linarith) (one_le_pow₀ (by norm_num))).trans_lt h2
    refine ⟨(m / 2 ^ n, 0), ?_, ?_⟩
    · rw [zpow_neg, zpow_natCast, ← div_eq_mul_inv, halveLoop_of_lt hlt]
    · rw [Int.natAbs_neg, Int.natAbs_natCast, doubleLoop_div_pow h1 h2, zero_sub]

/-- R120 step 4: `n` turns append the first `n` fraction bits of `f` to `a`; the rest is cut off. -/
theorem mantissaLoop_eq_floor (n : ℕ) {f : ℚ} (h0 : 0 ≤ f) (h1 : f < 1) (a : ℕ) :
    mantissaLoop n f a = a * 2 ^ n + ⌊f * 2 ^ n⌋₊ := by
  induction n generalizing f a with
  | zero => rw [mantissaLoop, pow_zero, pow_zero, mul_one, mul_one, Nat.floor_eq_zero.2 h1, add_zero]
  | succ n ih =>
    have hfirst : f * 2 ^ (n + 1) = Int.fract (f * 2) * 2 ^ n + ((⌊f * 2⌋₊ * 2 ^ n : ℕ) : ℚ) := by
      push_cast
      rw [natCast_floor_eq_intCast_floor (by positivity), Int.fract]
      ring
    show mantissaLoop n (Int.fract (f * 2)) (2 * a + ⌊f * 2⌋.toNat) = _
    rw [ih (Int.fract_nonneg _) (Int.fract_lt_one _), Int.floor_toNat, hfirst,
      Nat.floor_add_natCast (mul_nonneg (Int.fract_nonneg _) (by positivity))]
    ring

/-- R120 step 4 on the fraction of a normal word: its upper 23 bits. -/
theorem mantissaLoop_fracField (x : Word64) : mantissaLoop 23 (fracField x / 2 ^ 52) 0 = fracField x / 2 ^ 29 := by
  have hscale : (fracField x : ℚ) / 2 ^ 52 * 2 ^ 23 = fracField x / (2 ^ 29 : ℕ) := by
    push_cast
    ring
  rw [mantissaLoop_eq_floor 23 (by positivity) (fracField_div_lt_one x), hscale, Nat.floor_div_eq_div, zero_mul,
    zero_add]

/-! ### The algorithm and the closed form, class by class (R122) -/

theorem enc32_of_notFinite {x : Word64} (h : NotFinite x) : enc32 x = .err .invalidInput :=
  if_pos ((notFinite_iff x).1 h)

theorem enc32Literal_of_notFinite {x : Word64} (h : NotFinite x) : enc32Literal x = some (.err .invalidInput) := by
  rw [enc32Literal, value64_of_notFinite h]

theorem enc32_of_isZero {x : Word64} (h : IsZero x) : enc32 x = .ok 0#32 :=
  (if_neg (mt (notFinite_iff x).2 (not_notFinite_of_value64 (value64_of_isZero h)))).trans (if_pos h)

theorem enc32Literal_of_isZero {x : Word64} (h : IsZero x) : enc32Literal x = some (.ok 0#32) := by
  rw [enc32Literal, value64_of_isZero h]
  exact if_pos h

/-- The closed form lays the three fields of the payload side by side (R121). -/
theorem payload_fields_eq {x : Word64} (h : ¬ (expField x < 896 ∨ 1151 < expField x)) :
    x.extractLsb' 63 1 ++ BitVec.ofNat 8 (expField x - 896) ++ x.extractLsb' 29 23 =
      BitVec.ofNat 32 ((x.getLsbD 63).toNat * 2 ^ 31 + (expField x - 896) * 2 ^ 23 + fracField x / 2 ^ 29) := by
  have hsign : (x.extractLsb' 63 1).toNat = (x.getLsbD 63).toNat := by
    rw [toNat_signBit, BitVec.extractLsb'_toNat, Nat.shiftRight_eq_div_pow]
    omega
  have hfrac : (x.extractLsb' 29 23).toNat = fracField x / 2 ^ 29 := by
    rw [fracField_eq, BitVec.extractLsb'_toNat, Nat.shiftRight_eq_div_pow]
    omega
  have hbit := (x.getLsbD 63).toNat_lt
  have hfit := fracField_lt x
  apply BitVec.eq_of_toNat_eq
  show (x.extractLsb' 63 1 ++ BitVec.ofNat 8 (expField x - 896) ++ x.extractLsb' 29 23 : BitVec (1 + 8 + 23)).toNat = _
  rw [append_toNat, append_toNat, hsign, hfrac, BitVec.toNat_ofNat, BitVec.toNat_ofNat]
  omega

section
variable {x : Word64} {m : ℚ} {k : ℤ} (hx : ScientificForm x m k)
include hx

theorem ScientificForm.enc32_eq : enc32 x =
    if k < -127 ∨ 128 < k then .err .rangeOverflow
    else .ok (x.extractLsb' 63 1 ++ BitVec.ofNat 8 (expField x - 896) ++ x.extractLsb' 29 23) := by
  simp only [hx.exponent_out_iff]
  exact (if_neg (mt (notFinite_iff x).2 hx.not_notFinite)).trans (if_neg hx.not_isZero)

/-- R120 from step 3 on: its step 2 finds `m` and `k`. -/
theorem ScientificForm.enc32Literal_eq : enc32Literal x =
    some (if k < -127 ∨ 128 < k then .err .rangeOverflow
      else .ok (BitVec.ofNat 32
        ((x.getLsbD 63).toNat * 2 ^ 31 + (k + 127).toNat * 2 ^ 23 + mantissaLoop 23 (m - 1) 0))) := by
  obtain ⟨⟨q, e⟩, hhalve, hdouble⟩ :=
    loops_normalise (fuel := loopFuel) hx.one_le hx.lt_two (hx.exponent_bound.trans_lt (by decide))
  have hnonzero : x.extractLsb' 0 63 ≠ 0#63 := hx.not_isZero
  have hsign : (if signFactor x * (m * 2 ^ k) < 0 then 1 else 0) = (x.getLsbD 63).toNat := by
    simp only [hx.value_neg_iff]
    cases x.getLsbD 63 <;> rfl
  have hrange : (k + 127 < 0 ∨ k + 127 > 255) ↔ (k < -127 ∨ 128 < k) := by omega
  rw [enc32Literal, hx.value]
  dsimp only at hdouble ⊢
  rw [if_neg hnonzero, hx.abs_value, hhalve]
  dsimp only
  rw [hdouble]
  simp only [hrange, hsign, apply_ite some]

end

/-- The closed form answers what the algorithm answers, on every word (R130). -/
theorem enc32Literal_eq_enc32 (x : Word64) : enc32Literal x = some (enc32 x) := by
  by_cases hfin : NotFinite x
  · rw [enc32Literal_of_notFinite hfin, enc32_of_notFinite hfin]
  by_cases hzero : IsZero x
  · rw [enc32Literal_of_isZero hzero, enc32_of_isZero hzero]
  obtain ⟨m, k, hx⟩ := exists_scientificForm hfin hzero
  rw [hx.enc32Literal_eq, hx.enc32_eq]
  by_cases hk : k < -127 ∨ 128 < k
  · rw [if_pos hk, if_pos hk]
  · obtain ⟨hexponent, rfl⟩ := hx.fields_of_le (by omega)
    have hbiased : (k + 127).toNat = expField x - 896 := by omega
    rw [if_neg hk, if_neg hk, payload_fields_eq (mt hx.exponent_out_iff.2 hk), hbiased, add_sub_cancel_left,
      mantissaLoop_fracField]

theorem enc32_of_outOfRange {x : Word64} (h : OutOfRange x) : enc32 x = .err .rangeOverflow := by
  obtain ⟨v, hv, hne, -⟩ := id h
  obtain ⟨m, k, hx⟩ := exists_scientificForm (not_notFinite_of_value64 hv) (not_isZero_of_value64 hv hne)
  rw [hx.enc32_eq, if_pos (hx.outOfRange_iff.1 h)]

/-- What passes the three checks of R122 encodes. -/
theorem exists_enc32_eq_ok {x : Word64} (hfin : ¬ NotFinite x) (hzero : ¬ IsZero x) (hout : ¬ OutOfRange x) :
    ∃ w, enc32 x = .ok w := by
  obtain ⟨m, k, hx⟩ := exists_scientificForm hfin hzero
  exact ⟨_, hx.enc32_eq.trans (if_neg (mt hx.outOfRange_iff.2 hout))⟩

/-! ### The command -/

/-- R123: how ENCODE ends, by what enc32 answers. -/
theorem exec_encode_spec (s : State) : ∃ t, exec .encode s = .next t ∧
    (∀ w, enc32 s.regs.value = .ok w →
      t.regs.payload = w ∧ Ends t 0x0000#16 ∧ SameExcept [.payloadHi, .payloadLo, .status] s t) ∧
    (∀ c, enc32 s.regs.value = .err c → Ends t (statusWord 0#4 0#4 c) ∧ SameExcept [.status] s t) := by
  show ∃ t, execEncode s = .next t ∧ _
  unfold execEncode
  cases enc32 s.regs.value with
  | ok w =>
    refine ⟨_, rfl, ?_, fun c hc => by cases hc⟩
    rintro _ ⟨⟩
    refine ⟨by simp, ⟨report_status _ _ _ _, rfl⟩, SameExcept.of_get (fun g hg => ?_) rfl⟩
    show ((s.regs.putPayload w).report _ _ _).get g = _
    simp only [List.mem_cons, List.not_mem_nil, or_false, not_or] at hg
    obtain ⟨hhi, hlo, hstatus⟩ := hg
    rw [get_report, if_neg hstatus, get_putPayload, if_neg hhi, if_neg hlo]
  | err c =>
    obtain ⟨t, hraise, hstatus, hdata, hframe⟩ := raise_spec s c
    refine ⟨t, hraise, fun w hw => (by cases hw), ?_⟩
    rintro _ ⟨⟩
    exact ⟨⟨hstatus, hdata⟩, hframe⟩

/-- Settles O18: ENCODE ends by what enc32 answers, and the source's algorithm answers the same. -/
theorem encodeRunsTheSourceAlgorithm : Obligations.EncodeRunsTheSourceAlgorithm := by
  refine ⟨runsAs_of_decode (by decide), fun s => ?_⟩
  obtain ⟨t, hrun, hok, herr⟩ := exec_encode_spec s
  have corner : ∀ {x w}, enc32 x = .ok w → s.regs.value = x → t.regs.payload = w ∧ t.regs.status = 0x0000#16 := by
    rintro x w hx rfl
    obtain ⟨hpayload, ⟨hstatus, -⟩, -⟩ := hok w hx
    exact ⟨hpayload, hstatus⟩
  refine ⟨t, enc32 s.regs.value, enc32Literal_eq_enc32 _, hrun, hok, fun c hc => ?_, corner (by decide),
    corner (by decide), corner (by decide), corner (by decide), corner (by decide), corner (by decide)⟩
  obtain ⟨hends, hframe⟩ := herr c hc
  obtain rfl | rfl := enc32_err hc
  · exact ⟨.inl ⟨rfl, hends⟩, hframe⟩
  · exact ⟨.inr ⟨rfl, hends⟩, hframe⟩

/-- Settles O19: each check of R122 decides what enc32 answers, and so how ENCODE ends. -/
theorem encoderChecksInOrder : Obligations.EncoderChecksInOrder := by
  intro s
  obtain ⟨t, hrun, hok, herr⟩ := exec_encode_spec s
  refine ⟨t, hrun, fun hfin => ?_, fun hzero => ?_, fun hout => ?_, fun hfin hzero hout => ?_⟩
  · obtain ⟨⟨hstatus, -⟩, -⟩ := herr _ (enc32_of_notFinite hfin)
    exact hstatus
  · obtain ⟨hpayload, ⟨hstatus, -⟩, -⟩ := hok _ (enc32_of_isZero hzero)
    exact ⟨hpayload, hstatus⟩
  · obtain ⟨⟨hstatus, -⟩, -⟩ := herr _ (enc32_of_outOfRange hout)
    exact hstatus
  · obtain ⟨w, hw⟩ := exists_enc32_eq_ok hfin hzero hout
    obtain ⟨hpayload, ⟨hstatus, -⟩, -⟩ := hok w hw
    exact ⟨hstatus, by rw [enc32Literal_eq_enc32, hw, hpayload]⟩

end Sys2Proof.Machine
end

section
/-!
PROOFS. DECODE (41_float_codec.md R125, R126): the payload's mantissa sum as a number, the fields of the word that dec32
lays out, and that this word, which is always a normal one, stands for the payload's exact real.
-/

namespace Sys2Proof.Machine
open Sys2Proof.Claims

/-! ### The payload's exact real -/

/-- The weighted sum of the low `j` bits, the highest of them weighing 1/2, is the number they make over 2^j. -/
theorem sum_weighted_bits (j n : ℕ) :
    ∑ i ∈ Finset.Icc 1 j, (if n.testBit (j - i) then (2 : ℚ) ^ (-(i : ℤ)) else 0) = (n % 2 ^ j : ℕ) / 2 ^ j := by
  induction j generalizing n with
  | zero => simp [Nat.mod_one]
  | succ j ih =>
    have hupper : ∀ i ∈ Finset.Icc 1 j, (if n.testBit (j + 1 - i) then (2 : ℚ) ^ (-(i : ℤ)) else 0) =
        if (n / 2).testBit (j - i) then (2 : ℚ) ^ (-(i : ℤ)) else 0 := by
      intro i hi
      rw [Nat.sub_add_comm (Finset.mem_Icc.1 hi).2, Nat.testBit_succ]
    have hlowest : (if n.testBit 0 then (2 : ℚ) ^ (-((j + 1 : ℕ) : ℤ)) else 0) = (n % 2 : ℕ) / 2 ^ (j + 1) := by
      rw [Nat.testBit_zero, zpow_neg, zpow_natCast]
      obtain h | h := Nat.mod_two_eq_zero_or_one n <;> simp [h]
    have hmod : n % 2 ^ (j + 1) = 2 * (n / 2 % 2 ^ j) + n % 2 := by rw [pow_succ', Nat.mod_mul, add_comm]
    rw [Finset.sum_Icc_succ_top (by omega), Finset.sum_congr rfl hupper, ih, Nat.sub_self, hlowest, hmod]
    push_cast
    field_simp
    ring

/-- R125 with the mantissa as a number over 2^23. -/
theorem payloadValue_eq (w : Payload) : payloadValue w = (if w.getLsbD 31 then -1 else 1) *
    ((1 + ((w.extractLsb' 0 23).toNat : ℚ) / 2 ^ 23) * 2 ^ (((w.extractLsb' 23 8).toNat : ℤ) - 127)) := by
  have hbits : ∑ i ∈ Finset.Icc 1 23, (if w.getLsbD (23 - i) then (2 : ℚ) ^ (-(i : ℤ)) else 0) =
      (w.extractLsb' 0 23).toNat / 2 ^ 23 := by
    rw [BitVec.extractLsb'_toNat, Nat.shiftRight_zero]
    exact sum_weighted_bits 23 w.toNat
  rw [payloadValue, hbits, mul_assoc]

/-! ### The word of dec32 -/

theorem dec32_toNat (w : Payload) : (dec32 w).toNat = (w.getLsbD 31).toNat * 2 ^ 63 +
    ((w.extractLsb' 23 8).toNat + 896) * 2 ^ 52 + (w.extractLsb' 0 23).toNat * 2 ^ 29 := by
  have hsign : (w.extractLsb' 31 1).toNat = (w.getLsbD 31).toNat := by
    rw [BitVec.getLsbD, Nat.toNat_testBit, BitVec.extractLsb'_toNat, Nat.shiftRight_eq_div_pow]
  have hexp := (w.extractLsb' 23 8).isLt
  show (w.extractLsb' 31 1 ++ BitVec.ofNat 11 ((w.extractLsb' 23 8).toNat + 896) ++ w.extractLsb' 0 23 ++ 0#29 :
    BitVec (1 + 11 + 23 + 29)).toNat = _
  rw [append_toNat, append_toNat, append_toNat, hsign, BitVec.toNat_ofNat, BitVec.toNat_ofNat]
  omega

theorem expField_dec32 (w : Payload) : expField (dec32 w) = (w.extractLsb' 23 8).toNat + 896 := by
  have hexp := (w.extractLsb' 23 8).isLt
  have hfrac := (w.extractLsb' 0 23).isLt
  rw [expField_eq, dec32_toNat]
  omega

theorem fracField_dec32 (w : Payload) : fracField (dec32 w) = (w.extractLsb' 0 23).toNat * 2 ^ 29 := by
  have hfrac := (w.extractLsb' 0 23).isLt
  rw [fracField_eq, dec32_toNat]
  omega

theorem signBit_dec32 (w : Payload) : (dec32 w).getLsbD 63 = w.getLsbD 31 := by
  have hexp := (w.extractLsb' 23 8).isLt
  have hfrac := (w.extractLsb' 0 23).isLt
  have hnum : ((dec32 w).getLsbD 63).toNat = (w.getLsbD 31).toNat := by
    rw [toNat_signBit, dec32_toNat]
    omega
  revert hnum
  cases (dec32 w).getLsbD 63 <;> cases w.getLsbD 31 <;> decide

/-- Every exponent field, 0 and 255 included, gives a normal word (R128). -/
theorem scientificForm_dec32 (w : Payload) : ScientificForm (dec32 w)
    (1 + (fracField (dec32 w) : ℚ) / 2 ^ 52) ((expField (dec32 w) : ℤ) - 1023) := by
  have hexp := (w.extractLsb' 23 8).isLt
  apply scientificForm_of_normal
  · rw [notFinite_iff, expField_dec32]
    omega
  · rw [expField_dec32]
    omega

/-- The word of dec32 stands for the payload's exact real (R125). -/
theorem value64_dec32 (w : Payload) : value64 (dec32 w) = some (payloadValue w) := by
  have hfrac : (fracField (dec32 w) : ℚ) / 2 ^ 52 = (w.extractLsb' 0 23).toNat / 2 ^ 23 := by
    rw [fracField_dec32]
    push_cast
    ring
  have hexp : (expField (dec32 w) : ℤ) - 1023 = ((w.extractLsb' 23 8).toNat : ℤ) - 127 := by
    rw [expField_dec32]
    omega
  rw [(scientificForm_dec32 w).value, payloadValue_eq, signFactor, signBit_dec32, hfrac, hexp]

/-- No other word stands for it. -/
theorem eq_dec32_of_value64 {w : Payload} {y : Word64} (h : value64 y = some (payloadValue w)) : y = dec32 w := by
  refine (scientificForm_dec32 w).eq_of_value64_eq ?_ (h.trans (value64_dec32 w).symm)
  rw [expField_dec32]
  omega

/-! ### The command -/

/-- R126: how DECODE ends. -/
theorem exec_decode_spec (s : State) : ∃ t, exec .decode s = .next t ∧ t.regs.value = dec32 s.regs.payload ∧
    Ends t 0x0000#16 ∧ SameExcept [.value3, .value2, .value1, .value0, .status] s t := by
  refine ⟨_, rfl, by simp, ⟨report_status _ _ _ _, rfl⟩, SameExcept.of_get (fun g hg => ?_) rfl⟩
  show ((s.regs.putValue _).report _ _ _).get g = _
  simp only [List.mem_cons, List.not_mem_nil, or_false, not_or] at hg
  obtain ⟨h3, h2, h1, h0, hstatus⟩ := hg
  rw [get_report, if_neg hstatus, get_putValue, if_neg h3, if_neg h2, if_neg h1, if_neg h0]

/-- Settles O21: DECODE writes the word of dec32, the one word that stands for the payload's exact real. -/
theorem decodeGivesTheExactReal : Obligations.DecodeGivesTheExactReal := by
  refine ⟨runsAs_of_decode (by decide), fun s => ?_⟩
  obtain ⟨t, hrun, hvalue, hends, hframe⟩ := exec_decode_spec s
  have corner : ∀ {w y}, dec32 w = y → s.regs.payload = w → t.regs.value = y := by
    rintro w y hy rfl
    exact hvalue.trans hy
  exact ⟨t, hrun, hends, hframe, (congrArg value64 hvalue).trans (value64_dec32 _),
    fun y hy => (eq_dec32_of_value64 hy).trans hvalue.symm, corner (by decide), corner (by decide), corner (by decide),
    corner (by decide), corner (by decide), corner (by decide)⟩

end Sys2Proof.Machine
end

section
/-!
PROOFS. CRC4 (42_crc4.md R150, R151, R155): the working buffer, character by character, after each position of the
division; the characters of the strings cut out of the registers and of the result placed in CRC_OUT; how the command
ends.
-/

namespace Sys2Proof.Machine
open Sys2Proof.Claims

/-! ### One position of the loop, character by character -/

theorem getElem?_xorFront (bs p : List Bool) (k : ℕ) :
    (xorFront bs p)[k]? = bs[k]?.map (· ^^ p.getD k false) := by
  induction bs, p using xorFront.induct generalizing k with
  | case1 b bs q qs ih => cases k <;> simp [xorFront, ih]
  | case2 bs => simp [xorFront]
  | case3 => simp [xorFront]

/-- Below the window the buffer is as it was; from the window's start on, the polynomial, continued by 0, is added. -/
theorem getElem?_xorWindow (buf p : List Bool) {i : ℕ} (hi : i ≤ buf.length) (k : ℕ) :
    (xorWindow buf p i)[k]? = if k < i then buf[k]? else buf[k]?.map (· ^^ p.getD (k - i) false) := by
  rw [xorWindow, List.getElem?_append, List.length_take, Nat.min_eq_left hi, getElem?_xorFront, List.getElem?_drop]
  split
  · next hk => rw [List.getElem?_take_of_lt hk]
  · next hk => rw [Nat.add_sub_cancel' (Nat.le_of_not_lt hk)]

/-- R150 step 2: a position that reads 1 changes the five characters of its window; every other character stays. -/
theorem getElem?_divideStep {buf p : List Bool} (hp : p.length = 5) {i : ℕ} (hi : i ≤ buf.length) (k : ℕ) :
    (divideStep p buf i)[k]? = buf[k]?.map fun b =>
      if buf.getD i false = true ∧ i ≤ k ∧ k ≤ i + 4 then b ^^ p.getD (k - i) false else b := by
  rw [divideStep]
  by_cases htest : buf.getD i false = true
  · rw [if_pos htest, getElem?_xorWindow buf p hi]
    obtain hbelow | hinside | hbeyond : k < i ∨ (i ≤ k ∧ k ≤ i + 4) ∨ i + 4 < k := by omega
    · simp only [hbelow, hbelow.not_ge, if_true, false_and, and_false, if_false, Option.map_id']
    · simp only [htest, hinside, hinside.1.not_gt, if_false, and_self, if_true]
    · have hbit : p.getD (k - i) false = false := List.getD_eq_default _ _ (by omega)
      have hstart : ¬ k < i := by omega
      simp only [hstart, hbeyond.not_ge, hbit, Bool.xor_false, ite_self, if_false]
  · simp only [htest, Bool.false_eq_true, false_and, if_false, Option.map_id']

/-! ### The division (R150) -/

section
variable (n : ℕ) (d : ℕ → Bool) (p : List Bool)

/-- The first `m` characters of the working buffer after `i` positions. -/
def bufferList (m i : ℕ) : List Bool :=
  (List.range m).map (divisionBuffer n d (p.getD · false) i)

theorem getElem?_bufferList (m i k : ℕ) : (bufferList n d p m i)[k]? =
    if k < m then some (divisionBuffer n d (p.getD · false) i k) else none := by
  by_cases hk : k < m <;> simp [bufferList, hk]

/-- The test reads the buffer as earlier positions left it. -/
theorem divideStep_bufferList (hp : p.length = 5) {m i : ℕ} (hi : i < m) :
    divideStep p (bufferList n d p m i) i = bufferList n d p m (i + 1) := by
  have htest : (bufferList n d p m i).getD i false = divisionBuffer n d (p.getD · false) i i := by
    rw [List.getD_eq_getElem?_getD, getElem?_bufferList, if_pos hi, Option.getD_some]
  have hlength : (bufferList n d p m i).length = m := by simp [bufferList]
  apply List.ext_getElem?
  intro k
  rw [getElem?_divideStep hp (hlength.symm ▸ hi.le), getElem?_bufferList, getElem?_bufferList, htest]
  by_cases hk : k < m
  · rw [if_pos hk, if_pos hk, Option.map_some, divisionBuffer]
  · rw [if_neg hk, if_neg hk, Option.map_none]

/-- `i` positions of the loop, one after the other, from the buffer before the first. -/
theorem foldl_divideStep_bufferList (hp : p.length = 5) {m i : ℕ} (hi : i ≤ m) :
    (List.range i).foldl (divideStep p) (bufferList n d p m 0) = bufferList n d p m i := by
  induction i with
  | zero => rfl
  | succ i ih => rw [List.range_succ, List.foldl_append, ih (by omega), List.foldl_cons, List.foldl_nil,
      divideStep_bufferList n d p hp hi]

/-- Past the first `n` characters of the buffer come the last four. -/
theorem drop_bufferList (i : ℕ) : (bufferList n d p (n + 4) i).drop n =
    (List.range 4).map fun k => divisionBuffer n d (p.getD · false) i (n + k) := by
  rw [bufferList, List.range_add, List.map_append, List.drop_left' (by simp), List.map_map]
  rfl

end

/-- R150 step 1: the data string with 4 zeros appended. -/
theorem append_zeros_eq_bufferList (d p : List Bool) :
    d ++ List.replicate 4 false = bufferList d.length (d.getD · false) p (d.length + 4) 0 := by
  apply List.ext_getElem?
  intro k
  rw [getElem?_bufferList, List.getElem?_append, divisionBuffer, List.getElem?_replicate]
  by_cases hdata : k < d.length
  · simp [hdata, Nat.lt_add_right]
  · have hzeros : k - d.length < 4 ↔ k < d.length + 4 := by omega
    simp [hdata, hzeros]

/-- R150: the function is the division, for every data string. -/
theorem crc4_eq_divisionBuffer (d : List Bool) {p : List Bool} (hp : p.length = 5) : crc4 d p =
    (List.range 4).map fun k =>
      divisionBuffer d.length (d.getD · false) (p.getD · false) d.length (d.length + k) := by
  rw [crc4, Config.crcAppend, append_zeros_eq_bufferList d p, foldl_divideStep_bufferList _ _ _ hp (by omega),
    drop_bufferList]

/-! ### Strings and words (R151) -/

/-- The division reads the characters of the data string and of the polynomial, and no others. -/
theorem divisionBuffer_congr {n : ℕ} {d d' p p' : ℕ → Bool} (hd : ∀ k < n, d k = d' k) (hp : ∀ j ≤ 4, p j = p' j)
    (i k : ℕ) : divisionBuffer n d p i k = divisionBuffer n d' p' i k := by
  induction i generalizing k with
  | zero => exact ite_congr rfl (hd k) fun _ => rfl
  | succ i ih =>
    simp only [divisionBuffer, ih]
    exact ite_congr rfl (fun hwindow => by rw [hp _ (by omega)]) fun _ => rfl

theorem length_dataString (d : Word64) (n : ℕ) : (dataString d n).length = n := by simp [dataString]

theorem getD_dataString (d : Word64) {n i : ℕ} (hi : i < n) :
    (dataString d n).getD i false = d.getLsbD (n - 1 - i) := by
  simp [dataString, hi]

theorem length_polyString (p : Poly) : (polyString p).length = 5 := by simp [polyString]

theorem getD_polyString (p : Poly) {j : ℕ} (hj : j ≤ 4) : (polyString p).getD j false = p.getLsbD (4 - j) := by
  simp [polyString, Nat.lt_succ_of_le hj]

/-- The first character of a CRC is its most significant bit. -/
theorem getLsbD_crcNibble (f : ℕ → Bool) {k : ℕ} (hk : k < 4) :
    (crcNibble ((List.range 4).map f)).getLsbD (3 - k) = f k := by
  have hbits : ∀ a b c d : Bool, (crcNibble [a, b, c, d]).getLsbD 3 = a ∧ (crcNibble [a, b, c, d]).getLsbD 2 = b ∧
      (crcNibble [a, b, c, d]).getLsbD 1 = c ∧ (crcNibble [a, b, c, d]).getLsbD 0 = d := by decide
  obtain ⟨h0, h1, h2, h3⟩ := hbits (f 0) (f 1) (f 2) (f 3)
  match k, hk with
  | 0, _ => exact h0
  | 1, _ => exact h1
  | 2, _ => exact h2
  | 3, _ => exact h3

/-- The division on words: the bits of the CRC are the last four characters of the buffer. -/
theorem getLsbD_crc4w (d : Word64) (n : ℕ) (p : Poly) {k : ℕ} (hk : k < 4) : (crc4w d n p).getLsbD (3 - k) =
    divisionBuffer n (fun i => d.getLsbD (n - 1 - i)) (fun j => p.getLsbD (4 - j)) n (n + k) := by
  rw [crc4w, crc4_eq_divisionBuffer _ (length_polyString p), length_dataString, getLsbD_crcNibble _ hk]
  exact divisionBuffer_congr (fun _ => getD_dataString d) (fun _ => getD_polyString p) _ _

/-- POLY's characters are bits 12:8 of CRC_CFG (R75). -/
theorem getLsbD_crcPoly (r : Regs) {j : ℕ} (hj : j ≤ 4) : r.crcPoly.getLsbD (4 - j) = r.crcCfg.getLsbD (12 - j) := by
  rw [Regs.crcPoly, BitVec.getLsbD_extractLsb', show 8 + (4 - j) = 12 - j by omega]
  simp only [show 4 - j < 5 by omega, decide_true, Bool.true_and]

/-! ### The command (R155) -/

/-- R155: CRC4 refuses a length over 64 and reports that in STATUS alone. -/
theorem exec_crc4_of_gt {s : State} (h : s.regs.crcLen > 64) : exec .crc4 s = s.raise .invalidInput := if_pos h

/-- R155: how CRC4 ends on a length up to 64. -/
theorem exec_crc4_spec {s : State} (h : s.regs.crcLen ≤ 64) : ∃ t, exec .crc4 s = .next t ∧
    t.regs.crcOut = (crc4w s.regs.crcIn s.regs.crcLen s.regs.crcPoly).setWidth 16 ∧
    Ends t 0x0000#16 ∧ SameExcept [.crcOut, .status] s t := by
  refine ⟨_, if_neg (Nat.not_lt.2 h), ?_, ⟨report_status _ _ _ _, rfl⟩, SameExcept.of_get (fun g hg => ?_) rfl⟩
  · exact (get_report _ _ _ _ .crcOut).trans (putCrcOut_crcOut _ _)
  · show ((s.regs.putCrcOut _).report _ _ _).get g = _
    simp only [List.mem_cons, List.not_mem_nil, or_false, not_or] at hg
    obtain ⟨hout, hstatus⟩ := hg
    rw [get_report, if_neg hstatus, get_putCrcOut, if_neg hout]

/-- Settles O25: CRC4 ends with crc4w of the registers in CRC_OUT, and crc4w is the division on words. -/
theorem crc4DividesBitByBit : Obligations.Crc4DividesBitByBit := by
  refine ⟨runsAs_of_decode (by decide), fun s hlen => ?_, fun s n hn hle => ?_,
    fun d p hp => crc4_eq_divisionBuffer d hp, fun s hcfg hin => ?_⟩
  · obtain ⟨t, hraise, hstatus, hdata, hframe⟩ := raise_spec s .invalidInput
    exact ⟨t, (exec_crc4_of_gt (crcLen_eq s.regs ▸ hlen)).trans hraise, ⟨hstatus, hdata⟩, hframe⟩
  · rw [← crcLen_eq] at hn
    subst hn
    obtain ⟨t, hrun, hout, hends, hframe⟩ := exec_crc4_spec hle
    refine ⟨t, hrun, hends, hframe, ?_, fun k hk => ?_⟩
    · rw [hout, zext_toNat]
      exact BitVec.isLt _
    · rw [hout, BitVec.getLsbD_setWidth, getLsbD_crc4w _ _ _ hk,
        divisionBuffer_congr (fun _ _ => rfl) (fun _ => getLsbD_crcPoly s.regs)]
      simp only [show 3 - k < 16 by omega, decide_true, Bool.true_and]
  · have hlen : s.regs.crcLen = 5 := by rw [crcLen_eq, hcfg]; rfl
    have hpoly : s.regs.crcPoly = 0b10011#5 := by rw [Regs.crcPoly, hcfg]; rfl
    obtain ⟨t, hrun, hout, -, -⟩ := exec_crc4_spec (s := s) (by omega)
    refine ⟨t, hrun, hout.trans ?_⟩
    rw [hin, hlen, hpoly]
    decide

end Sys2Proof.Machine
end

section
/-!
PROOFS. PACK and UNPACK (43_register_packer.md R180 to R184): the wire block that PACK leaves, and the payload, CRC and
STATUS that UNPACK leaves, with their frames.
-/

namespace Sys2Proof.Machine
open Sys2Proof.Claims

/-- A command that overwrites `ws` and then reports has the frame of `ws` and STATUS. -/
theorem Overwrites.sameExcept_report {ws : List Reg} {o : Regs → Regs} (hover : Overwrites ws o) (s : State) (k c : Nibble)
    (e : ResultCode) :
    SameExcept (ws ++ [.status]) s { s with regs := (o s.regs).report k c e, readData := none } :=
  SameExcept.of_get
    (fun g hg => (hover.andThen (overwrites_report k c e) s.regs s.regs g).trans (if_neg hg)) rfl

/-! ### Two CRCs the rules state

The evaluator's nesting grows with the 32 positions of the division; at the default depth it stops short of the end. -/

section
set_option maxRecDepth 1000

/-- The payload after reset has the CRC 0 (R183, corner case). -/
theorem payloadCrc_zero : payloadCrc 0x00000000#32 = 0x0#4 := by decide

/-- The payload of 5.75 with bit 0 flipped (R184, example). -/
theorem payloadCrc_tampered : payloadCrc 0x40B80001#32 = 0x7#4 := by decide

end

/-! ### PACK -/

/-- R183: how PACK ends. -/
theorem exec_pack_spec (s : State) : ∃ t, exec .pack s = .next t ∧ Ends t 0x0000#16 ∧
    SameExcept [.highWord, .lowWord, .crcWord, .status] s t ∧
    t.regs.triple = pack s.regs.payload s.regs.crcOutNibble :=
  ⟨_, rfl, ⟨report_status _ _ _ _, rfl⟩, (overwrites_packed _ _).sameExcept_report s _ _ _,
    (report_triple _ _ _ _).trans (putTriple_triple _ _ _ _)⟩

/-- A wire block as PACK makes it says the packed payload and CRC (R180, R181). -/
theorem carries_of_triple {t : State} {w : Payload} {c : Nibble} (h : t.regs.triple = pack w c) : Carries t w c := by
  obtain ⟨hhigh, hlow, hcrc⟩ := Triple.mk.inj h
  exact ⟨hhigh ▸ hlow ▸ payload_halves w, hcrc ▸ nibble_zext c⟩

/-- Settles O31: PACK leaves the packed payload and CRC in the wire block. -/
theorem packFillsTheWireBlock : Obligations.PackFillsTheWireBlock := by
  refine ⟨runsAs_of_decode (by decide), fun s => ?_, ?_, fun s hpayload hcrcOut => ?_⟩
  · obtain ⟨t, hrun, hends, hframe, htriple⟩ := exec_pack_spec s
    obtain ⟨hhigh, hlow, hcrc⟩ := Triple.mk.inj htriple
    refine ⟨t, hrun, hends, hframe, hhigh, hlow, ?_⟩
    rw [hcrc, zext_toNat, Regs.crcOutNibble, nibble_toNat]
  · obtain ⟨t, hrun, -, -, htriple⟩ := exec_pack_spec State.reset
    exact ⟨t, hrun, carries_of_triple htriple, payloadCrc_zero⟩
  · obtain ⟨t, hrun, -, -, htriple⟩ := exec_pack_spec s
    rw [hpayload, Regs.crcOutNibble, hcrcOut] at htriple
    obtain ⟨hhigh, hlow, hcrc⟩ := Triple.mk.inj htriple
    exact ⟨t, hrun, hhigh, hlow, hcrc⟩

/-! ### UNPACK -/

/-- R182: the code that validation reports for a recomputed CRC `c` and a received CRC `k`. -/
def validationCode (c k : Nibble) : ResultCode := if c = k then .ok else .checksumMismatch

theorem validationCode_toNat (c k : Nibble) : (validationCode c k).code.toNat = if c = k then 0 else 2 := by
  unfold validationCode
  split <;> rfl

/-- R184: the two endings of UNPACK in one. -/
theorem exec_unpack_eq {s : State} {w : Payload} {k : Nibble} (hunpacked : unpack s.regs.triple = (w, k)) :
    exec .unpack s = s.finish
      (((s.regs.putPayload w).putCrcOut k).report k (payloadCrc w) (validationCode (payloadCrc w) k)) := by
  cases hval : validate w k with
  | ok c =>
    obtain ⟨hc, hck⟩ := validate_ok hval
    rw [exec_unpack_of_ok hunpacked hval, ← hc, validationCode, if_pos hck]
  | mismatch c k' =>
    obtain ⟨hc, hk', hck⟩ := validate_mismatch hval
    rw [exec_unpack_of_mismatch hunpacked hval, ← hc, hk', validationCode, if_neg hck]

/-- R184: how UNPACK ends. -/
theorem exec_unpack_spec {s : State} {w : Payload} {k : Nibble} (hunpacked : unpack s.regs.triple = (w, k)) :
    ∃ t, exec .unpack s = .next t ∧ SameExcept [.payloadHi, .payloadLo, .crcOut, .status] s t ∧
      Ends t (statusWord k (payloadCrc w) (validationCode (payloadCrc w) k)) ∧ t.regs.payload = w ∧
      t.regs.crcOut = k.setWidth 16 := by
  refine ⟨_, exec_unpack_eq hunpacked, (overwrites_unpacked w k).sameExcept_report s _ _ _,
    ⟨report_status _ _ _ _, rfl⟩, ?_, ?_⟩
  · rw [report_payload, putCrcOut_payload, putPayload_payload]
  · exact (get_report _ _ _ _ .crcOut).trans (putCrcOut_crcOut _ _)

/-- Settles O32: UNPACK ends with the unpacked payload and CRC and with the code of their validation. -/
theorem unpackValidatesTheWireBlock : Obligations.UnpackValidatesTheWireBlock := by
  refine ⟨runsAs_of_decode (by decide), fun s w k c hw hk hc => ?_, fun s hhigh hlow hcrc => ?_⟩
  · have hunpacked : unpack s.regs.triple = (w, k) :=
      Prod.ext hw.symm (BitVec.eq_of_toNat_eq ((nibble_toNat _).trans hk.symm))
    obtain ⟨t, hrun, hframe, ⟨hstatus, hdata⟩, hpayload, hcrcOut⟩ := exec_unpack_spec hunpacked
    have hcalc : payloadCrc w = c := hc.symm
    refine ⟨t, hrun, hdata, hframe, hpayload, hcrcOut ▸ zext_toNat k, ?_⟩
    rw [hstatus, hcalc, statusWord_toNat, validationCode_toNat]
  · have hunpacked : unpack s.regs.triple = (0x40B80001#32, 4#4) := by
      rw [Regs.triple, hhigh, hlow, hcrc]
      rfl
    obtain ⟨t, hrun, -, ⟨hstatus, -⟩, hpayload, hcrcOut⟩ := exec_unpack_spec hunpacked
    refine ⟨t, hrun, hpayload, hcrcOut, ?_⟩
    rw [hstatus, payloadCrc_tampered]
    rfl

end Sys2Proof.Machine
end

section
/-!
PROOFS. SEND and RECEIVE (44_pipelines.md R200, R201): the two endings of each, by what enc32 answers and by whether the
CRCs agree, with their frames.
-/

namespace Sys2Proof.Machine
open Sys2Proof.Claims

/-! ### CRC_OUT after the writes that follow it -/

section
variable (r : Regs)

@[simp] theorem report_crcOut (k c : Nibble) (e : ResultCode) : (r.report k c e).crcOut = r.crcOut :=
  get_report r k c e .crcOut

@[simp] theorem putValue_crcOut (y : Word64) : (r.putValue y).crcOut = r.crcOut := get_putValue r y .crcOut

@[simp] theorem putTriple_crcOut (h l k : Word) : (r.putTriple h l k).crcOut = r.crcOut := get_putTriple r h l k .crcOut

end

section
/- As for `payloadCrc_zero`, the division's 32 positions nest deeper than the default depth. -/
set_option maxRecDepth 1000

/-- The payload of 5.75 has the CRC 4 (R200, R201, examples). -/
theorem payloadCrc_of_575 : payloadCrc 0x40B80000#32 = 0x4#4 := by decide

end

/-! ### SEND -/

/-- R200: SEND on an encode error ends as the error does. -/
theorem exec_send_of_err {s : State} {c : ResultCode} (henc : enc32 s.regs.value = .err c) :
    exec .send s = s.raise c := by
  show execSend s = _
  rw [execSend, henc]

/-- R200: how SEND ends when VALUE encodes. -/
theorem exec_send_spec_of_ok {s : State} {w : Payload} (henc : enc32 s.regs.value = .ok w) :
    ∃ t, exec .send s = .next t ∧ Ends t 0x0000#16 ∧ t.regs.payload = w ∧
      t.regs.crcOut = (payloadCrc w).setWidth 16 ∧ t.regs.triple = pack w (payloadCrc w) ∧
      SameExcept [.payloadHi, .payloadLo, .crcOut, .highWord, .lowWord, .crcWord, .status] s t := by
  show ∃ t, execSend s = .next t ∧ _
  rw [execSend, henc]
  refine ⟨_, rfl, ⟨report_status _ _ _ _, rfl⟩, ?_, ?_, (report_triple _ _ _ _).trans (putTriple_triple _ _ _ _),
    ((overwrites_unpacked w _).andThen (overwrites_packed w _)).sameExcept_report s _ _ _⟩
  · rw [report_payload, putTriple_payload, putCrcOut_payload, putPayload_payload]
  · rw [report_crcOut, putTriple_crcOut, putCrcOut_crcOut]

/-- Settles O35: SEND ends by what enc32 answers, and the source's algorithm answers the same. -/
theorem sendEncodesChecksumsAndPacks : Obligations.SendEncodesChecksumsAndPacks := by
  refine ⟨runsAs_of_decode (by decide), fun s => ?_, fun s hvalue => ?_, fun s hvalue => ?_⟩
  · cases henc : enc32 s.regs.value with
    | err c =>
      obtain ⟨t, hraise, hstatus, hdata, hframe⟩ := raise_spec s c
      refine ⟨t, .err c, henc ▸ enc32Literal_eq_enc32 _, (exec_send_of_err henc).trans hraise, ?_, nofun⟩
      rintro _ ⟨⟩
      obtain rfl | rfl := enc32_err henc
      · exact ⟨.inl ⟨rfl, hstatus, hdata⟩, hframe⟩
      · exact ⟨.inr ⟨rfl, hstatus, hdata⟩, hframe⟩
    | ok w =>
      obtain ⟨t, hrun, hends, hpayload, hcrcOut, htriple, hframe⟩ := exec_send_spec_of_ok henc
      obtain ⟨hhigh, hlow, hcrcWord⟩ := Triple.mk.inj htriple
      refine ⟨t, .ok w, henc ▸ enc32Literal_eq_enc32 _, hrun, nofun, ?_⟩
      rintro _ ⟨⟩
      have hcrc : t.regs.crcOut.toNat = (payloadCrc w).toNat := by rw [hcrcOut, zext_toNat]
      exact ⟨hends, hpayload, hcrc, hhigh, hlow, hcrcWord.trans hcrcOut.symm, hframe⟩
  · have henc : enc32 s.regs.value = .ok 0x40B80000#32 := by rw [hvalue]; decide
    obtain ⟨t, hrun, ⟨hstatus, -⟩, hpayload, hcrcOut, htriple, -⟩ := exec_send_spec_of_ok henc
    rw [payloadCrc_of_575] at hcrcOut htriple
    exact ⟨t, hrun, hpayload, hcrcOut, carries_of_triple htriple, hstatus⟩
  · have hzero : IsZero s.regs.value := by obtain h | h := hvalue <;> rw [h] <;> rfl
    obtain ⟨t, hrun, -, -, -, htriple, -⟩ := exec_send_spec_of_ok (enc32_of_isZero hzero)
    rw [payloadCrc_zero] at htriple
    obtain ⟨hhigh, hlow, hcrcWord⟩ := Triple.mk.inj htriple
    exact ⟨t, hrun, hhigh, hlow, hcrcWord⟩

/-! ### RECEIVE -/

/-- R181: what a wire block carries is what unpack takes out of it. -/
theorem unpack_of_carries {s : State} {w : Payload} {k : Nibble} (h : Carries s w k) : unpack s.regs.triple = (w, k) :=
  Prod.ext h.1 h.2

/-! What validate answers, by the comparison it makes (R182). -/

theorem validate_of_match {w : Payload} {k : Nibble} (h : payloadCrc w = k) : validate w k = .ok k := by
  simp only [validate, h, ↓reduceIte]

theorem validate_of_mismatch {w : Payload} {k : Nibble} (h : payloadCrc w ≠ k) :
    validate w k = .mismatch (payloadCrc w) k := by
  simp only [validate, if_neg h]

section
variable {s : State} {w : Payload} {k : Nibble} (hcarries : Carries s w k)
include hcarries

/-- R201: how RECEIVE ends when the received CRC is the payload's. -/
theorem exec_receive_spec_of_match (hmatch : payloadCrc w = k) :
    ∃ t, exec .receive s = .next t ∧ Ends t (statusWord k k .ok) ∧ t.regs.payload = w ∧
      t.regs.crcOut = k.setWidth 16 ∧ t.regs.value = dec32 w ∧
      SameExcept [.payloadHi, .payloadLo, .crcOut, .value3, .value2, .value1, .value0, .status] s t := by
  refine ⟨_, exec_receive_of_ok (unpack_of_carries hcarries) (validate_of_match hmatch), ⟨report_status _ _ _ _, rfl⟩,
    ?_, ?_, (report_value _ _ _ _).trans (putValue_value _ _),
    ((overwrites_unpacked w k).andThen (overwrites_putValue (dec32 w))).sameExcept_report s _ _ _⟩
  · rw [report_payload, putValue_payload, putCrcOut_payload, putPayload_payload]
  · rw [report_crcOut, putValue_crcOut, putCrcOut_crcOut]

/-- R201: how RECEIVE ends when the received CRC is not the payload's. -/
theorem exec_receive_spec_of_mismatch (hmismatch : payloadCrc w ≠ k) :
    ∃ t, exec .receive s = .next t ∧ Ends t (statusWord k (payloadCrc w) .checksumMismatch) ∧ t.regs.payload = w ∧
      t.regs.crcOut = k.setWidth 16 ∧ SameExcept [.payloadHi, .payloadLo, .crcOut, .status] s t := by
  refine ⟨_, exec_receive_of_mismatch (unpack_of_carries hcarries) (validate_of_mismatch hmismatch),
    ⟨report_status _ _ _ _, rfl⟩, ?_, ?_, (overwrites_unpacked w k).sameExcept_report s _ _ _⟩
  · rw [report_payload, putCrcOut_payload, putPayload_payload]
  · rw [report_crcOut, putCrcOut_crcOut]

end

/-- Settles O37: RECEIVE ends by whether the CRCs agree, and dec32's word stands for the payload's exact real. -/
theorem receiveValidatesThenDecodes : Obligations.ReceiveValidatesThenDecodes := by
  refine ⟨runsAs_of_decode (by decide), fun s w k c hw hk hc => ?_, fun s hcarries => ?_, fun s hcarries => ?_⟩
  · have hcarries : Carries s w k := ⟨hw.symm, BitVec.eq_of_toNat_eq ((nibble_toNat _).trans hk.symm)⟩
    have hcalc : payloadCrc w = c := hc.symm
    by_cases hck : c = k
    · obtain ⟨t, hrun, ⟨hstatus, hdata⟩, hpayload, hcrcOut, hvalue, hframe⟩ :=
        exec_receive_spec_of_match hcarries (hcalc.trans hck)
      refine ⟨t, hrun, hdata, hpayload, hcrcOut ▸ zext_toNat k, fun h => absurd hck h, fun _ => ⟨?_, ?_, hframe⟩⟩
      · rw [hstatus, statusWord_toNat, hck]
        exact Nat.add_zero _
      · rw [hvalue, value64_dec32]
    · obtain ⟨t, hrun, ⟨hstatus, hdata⟩, hpayload, hcrcOut, hframe⟩ :=
        exec_receive_spec_of_mismatch hcarries fun h => hck (hcalc.symm.trans h)
      refine ⟨t, hrun, hdata, hpayload, hcrcOut ▸ zext_toNat k, fun _ => ⟨?_, hframe⟩, fun h => absurd h hck⟩
      rw [hstatus, hcalc, statusWord_toNat]
      rfl
  · obtain ⟨t, hrun, ⟨hstatus, -⟩, hpayload, hcrcOut, hvalue, -⟩ :=
      exec_receive_spec_of_match hcarries payloadCrc_of_575
    exact ⟨t, hrun, hpayload, hcrcOut, hvalue.trans (by decide), hstatus⟩
  · obtain ⟨t, hrun, ⟨hstatus, -⟩, -, -, hvalue, -⟩ := exec_receive_spec_of_match hcarries payloadCrc_zero
    refine ⟨t, hrun, hvalue.trans (by decide), ?_⟩
    rw [hstatus, statusCode_statusWord]
    rfl

end Sys2Proof.Machine
end

section
/-!
PROOFS. Errors and STATUS (60_exceptions.md R220 to R224): every term that is a command runs as a command word does; how the
commands that can fail end, and how any command ends by the code it leaves; and that STATUS is an operand of none.
-/

namespace Sys2Proof.Machine
open Sys2Proof.Claims

/-! ### Commands and the other transactions -/

/-- A WRITE to COMMAND runs the command that its word decodes to: R102's dispatch and R73's table choose alike. -/
theorem exec_write_commandAddr (c : Word) (s : State) :
    exec (.write Config.commandAddr c) s = exec (decodeCommand c) s := by
  show commandWrite c s = _
  rw [commandWrite, decodeCommand]
  by_cases hzero : zeroField c ≠ 0#12
  · rw [if_pos hzero, if_pos hzero]
    rfl
  · rw [if_neg hzero, if_neg hzero]
    match (opcField c).toNat with
    | 0 | 1 | 2 | 3 | 4 | 5 | 6 | 7 | _ + 8 => rfl

/-- Every command term runs as some command word does, the terms no transaction decodes to included (log entry 7). -/
theorem exists_commandWord {i : Instr} (h : i.isCommand = true) : ∃ c, exec i = exec (decodeCommand c) := by
  cases i with
  | read a x => cases h
  | write a d =>
    obtain rfl : a = Config.commandAddr := eq_of_beq h
    exact ⟨d, funext (exec_write_commandAddr d)⟩
  | encode => exact ⟨0x0001#16, rfl⟩
  | decode => exact ⟨0x0002#16, rfl⟩
  | crc4 => exact ⟨0x0003#16, rfl⟩
  | pack => exact ⟨0x0004#16, rfl⟩
  | unpack => exact ⟨0x0005#16, rfl⟩
  | send => exact ⟨0x0006#16, rfl⟩
  | receive => exact ⟨0x0007#16, rfl⟩
  | illegal c => exact ⟨0x0000#16, rfl⟩

/-- What is no command is a READ, or a WRITE outside COMMAND (R71). -/
theorem read_or_write_of_not_isCommand {i : Instr} (h : i.isCommand = false) :
    (∃ a x, i = .read a x) ∨ ∃ a d, a ≠ 16#16 ∧ i = .write a d := by
  cases i with
  | read a x => exact .inl ⟨a, x, rfl⟩
  | write a d => exact .inr ⟨a, d, ne_of_beq_false h, rfl⟩
  | encode | decode | crc4 | pack | unpack | send | receive | illegal => cases h

/-- No operation is fatal (R221, R226). -/
theorem completes (i : Instr) (s : State) : Completes i s := by
  cases h : i.isCommand with
  | true =>
    obtain ⟨c, hc⟩ := exists_commandWord h
    obtain ⟨r, hr⟩ := exec_decodeCommand_finishes s c
    exact ⟨_, (congrFun hc s).trans hr⟩
  | false =>
    obtain ⟨a, x, rfl⟩ | ⟨a, d, ha, rfl⟩ := read_or_write_of_not_isCommand h
    · exact ⟨_, exec_read s a x⟩
    · exact ⟨_, exec_write_of_ne s ha d⟩

/-! ### The commands that can fail, in pairs -/

/-- ENCODE and SEND end by what enc32 answers (R123, R200). -/
theorem exec_encode_or_send_spec {i : Instr} (hi : i = .encode ∨ i = .send) (s : State) : ∃ t, exec i s = .next t ∧
    (∀ w, enc32 s.regs.value = .ok w → t.regs.status = 0x0000#16) ∧
    (∀ e, enc32 s.regs.value = .err e → t.regs.status = statusWord 0#4 0#4 e ∧ SameExcept [.status] s t) := by
  obtain rfl | rfl := hi
  · obtain ⟨t, hrun, hok, herr⟩ := exec_encode_spec s
    refine ⟨t, hrun, fun w hw => ?_, fun e he => ?_⟩
    · obtain ⟨-, ⟨hstatus, -⟩, -⟩ := hok w hw
      exact hstatus
    · obtain ⟨⟨hstatus, -⟩, hframe⟩ := herr e he
      exact ⟨hstatus, hframe⟩
  · cases henc : enc32 s.regs.value with
    | ok w =>
      obtain ⟨t, hrun, ⟨hstatus, -⟩, -⟩ := exec_send_spec_of_ok henc
      exact ⟨t, hrun, fun _ _ => hstatus, nofun⟩
    | err e =>
      obtain ⟨t, hraise, hstatus, -, hframe⟩ := raise_spec s e
      refine ⟨t, (exec_send_of_err henc).trans hraise, nofun, ?_⟩
      rintro _ ⟨⟩
      exact ⟨hstatus, hframe⟩

/-- UNPACK and RECEIVE record both CRCs and the code of their validation, and on a mismatch nothing beyond the rebuilt
payload and the received CRC (R184, R201). -/
theorem exec_unpack_or_receive_spec {i : Instr} (hi : i = .unpack ∨ i = .receive) {s : State} {w : Payload} {k : Nibble}
    (hcarries : Carries s w k) : ∃ t, exec i s = .next t ∧
      t.regs.status = statusWord k (payloadCrc w) (validationCode (payloadCrc w) k) ∧
      t.regs.payload = w ∧ t.regs.crcOut = k.setWidth 16 ∧
      (payloadCrc w ≠ k → SameExcept [.payloadHi, .payloadLo, .crcOut, .status] s t) := by
  obtain rfl | rfl := hi
  · obtain ⟨t, hrun, hframe, ⟨hstatus, -⟩, hpayload, hcrcOut⟩ := exec_unpack_spec (unpack_of_carries hcarries)
    exact ⟨t, hrun, hstatus, hpayload, hcrcOut, fun _ => hframe⟩
  · by_cases hmatch : payloadCrc w = k
    · obtain ⟨t, hrun, ⟨hstatus, -⟩, hpayload, hcrcOut, -⟩ := exec_receive_spec_of_match hcarries hmatch
      refine ⟨t, hrun, ?_, hpayload, hcrcOut, fun h => absurd hmatch h⟩
      rw [hstatus, validationCode, if_pos hmatch, hmatch]
    · obtain ⟨t, hrun, ⟨hstatus, -⟩, hpayload, hcrcOut, hframe⟩ := exec_receive_spec_of_mismatch hcarries hmatch
      refine ⟨t, hrun, ?_, hpayload, hcrcOut, fun _ => hframe⟩
      rw [hstatus, validationCode, if_neg hmatch]

/-- Every wire block carries the payload of its first two words and the CRC in its third (R181). -/
theorem carries_own_words (s : State) :
    Carries s (s.regs.highWord ++ s.regs.lowWord) (s.regs.crcWord.extractLsb' 0 4) := ⟨rfl, rfl⟩

/-! ### Which code each command reports -/

/-- The code of R182 is OK exactly for equal CRCs. -/
theorem validationCode_code (c k : Nibble) : (validationCode c k).code = if c = k then 0#3 else 2#3 := by
  unfold validationCode
  split <;> rfl

/-- What changes STATUS alone leaves PAYLOAD (R23). -/
theorem SameExcept.payload_of_status {s t : State} (h : SameExcept [.status] s t) : t.regs.payload = s.regs.payload :=
  payload_congr fun g hg => h.1 g (mt List.mem_singleton.1 (not_mem_results_of_mem_operands .decode hg).2)

/-- R155, R223: the code of CRC4, by its length. -/
theorem exec_crc4_status (s : State) : ∃ t, exec .crc4 s = .next t ∧
    t.regs.status = if s.regs.crcCfg.toNat % 128 > 64 then 0x0001#16 else 0x0000#16 := by
  rw [← crcLen_eq]
  by_cases hlen : s.regs.crcLen > 64
  · obtain ⟨t, hraise, hstatus, -⟩ := raise_spec s .invalidInput
    exact ⟨t, (exec_crc4_of_gt hlen).trans hraise, hstatus.trans (if_pos hlen).symm⟩
  · obtain ⟨t, hrun, -, ⟨hstatus, -⟩, -⟩ := exec_crc4_spec (Nat.le_of_not_lt hlen)
    exact ⟨t, hrun, hstatus.trans (if_neg hlen).symm⟩

/-- Settles O40: each check of R122 decides what enc32 answers and so how ENCODE and SEND end; UNPACK and RECEIVE report the
validation of what the wire block carries. -/
theorem eachCommandReportsOneCode : Obligations.EachCommandReportsOneCode := by
  refine ⟨fun i s hi => ?_, exec_crc4_status, fun i s hi => ?_, fun i s hi => ?_, fun c s => ?_⟩
  · obtain ⟨t, hrun, hok, herr⟩ := exec_encode_or_send_spec hi s
    refine ⟨t, hrun, fun hfin => ?_, fun hzero => hok _ (enc32_of_isZero hzero), fun hout => ?_,
      fun hfin hzero hout => ?_, fun hfailed => ?_⟩
    · obtain ⟨hstatus, -⟩ := herr _ (enc32_of_notFinite hfin)
      exact hstatus
    · obtain ⟨hstatus, -⟩ := herr _ (enc32_of_outOfRange hout)
      exact hstatus
    · obtain ⟨w, hw⟩ := exists_enc32_eq_ok hfin hzero hout
      exact hok w hw
    · cases henc : enc32 s.regs.value with
      | ok w => exact absurd (hok w henc) hfailed
      | err e =>
        obtain ⟨-, hframe⟩ := herr e henc
        exact ⟨hframe.1 .crcOut (by decide), hframe.payload_of_status⟩
  · obtain ⟨t, hrun, hstatus, hpayload, hcrcOut, -⟩ := exec_unpack_or_receive_spec hi (carries_own_words s)
    refine ⟨t, hrun, ?_, ?_, hpayload, ?_, ?_⟩
    · rw [hstatus, statusCalc_statusWord]
    · rw [hstatus, statusRecv_statusWord, nibble_toNat]
    · rw [hcrcOut, zext_toNat, nibble_toNat]
    · rw [hstatus, statusCode_statusWord, statusCalc_statusWord, statusRecv_statusWord, validationCode_code]
  · obtain rfl | rfl := hi
    · obtain ⟨t, hrun, -, ⟨hstatus, -⟩, -⟩ := exec_decode_spec s
      exact ⟨t, hrun, hstatus⟩
    · obtain ⟨t, hrun, ⟨hstatus, -⟩, -⟩ := exec_pack_spec s
      exact ⟨t, hrun, hstatus⟩
  · obtain ⟨t, hraise, hstatus, -⟩ := raise_spec s .illegalCommand
    exact ⟨t, hraise, hstatus⟩

/-! ### What a command leaves, by the code it reports -/

/-- What R221 lets a command from `s` to `t` change, by the code it leaves in STATUS. -/
inductive EndsByCode (s t : State) : Prop where
  /-- OK: the results of the command. -/
  | ok (hcode : statusCode t.regs.status = 0#3)
  /-- INVALID_INPUT, RANGE_OVERFLOW and ILLEGAL_COMMAND: STATUS alone. -/
  | error (hcode : statusCode t.regs.status = 1#3 ∨ statusCode t.regs.status = 3#3 ∨ statusCode t.regs.status = 4#3)
      (hframe : SameExcept [.status] s t)
  /-- CHECKSUM_MISMATCH: also the rebuilt payload and the received CRC. -/
  | mismatch (hcode : statusCode t.regs.status = 2#3)
      (hframe : SameExcept [.payloadHi, .payloadLo, .crcOut, .status] s t)
      (hpayload : t.regs.payload = s.regs.highWord ++ s.regs.lowWord)
      (hcrcOut : t.regs.crcOut.toNat = s.regs.crcWord.toNat % 16)

section
variable {s t : State}

theorem EndsByCode.of_status_zero (h : t.regs.status = 0x0000#16) : EndsByCode s t := .ok (by rw [h]; rfl)

/-- The errors that are raised are those that R221 confines to STATUS. -/
theorem EndsByCode.of_raised {e : ResultCode} (he : e = .invalidInput ∨ e = .rangeOverflow ∨ e = .illegalCommand)
    (hstatus : t.regs.status = statusWord 0#4 0#4 e) (hframe : SameExcept [.status] s t) : EndsByCode s t := by
  refine .error ?_ hframe
  rw [hstatus, statusCode_statusWord]
  obtain rfl | rfl | rfl := he <;> decide

end

section
variable (s : State)

theorem encode_or_send_endsByCode {i : Instr} (hi : i = .encode ∨ i = .send) :
    ∃ t, exec i s = .next t ∧ EndsByCode s t := by
  obtain ⟨t, hrun, hok, herr⟩ := exec_encode_or_send_spec hi s
  refine ⟨t, hrun, ?_⟩
  cases henc : enc32 s.regs.value with
  | ok w => exact .of_status_zero (hok w henc)
  | err e =>
    obtain ⟨hstatus, hframe⟩ := herr e henc
    exact .of_raised ((enc32_err henc).imp_right .inl) hstatus hframe

theorem decode_endsByCode : ∃ t, exec .decode s = .next t ∧ EndsByCode s t := by
  obtain ⟨t, hrun, -, ⟨hstatus, -⟩, -⟩ := exec_decode_spec s
  exact ⟨t, hrun, .of_status_zero hstatus⟩

theorem crc4_endsByCode : ∃ t, exec .crc4 s = .next t ∧ EndsByCode s t := by
  by_cases hlen : s.regs.crcLen > 64
  · obtain ⟨t, hraise, hstatus, -, hframe⟩ := raise_spec s .invalidInput
    exact ⟨t, (exec_crc4_of_gt hlen).trans hraise, .of_raised (.inl rfl) hstatus hframe⟩
  · obtain ⟨t, hrun, -, ⟨hstatus, -⟩, -⟩ := exec_crc4_spec (Nat.le_of_not_lt hlen)
    exact ⟨t, hrun, .of_status_zero hstatus⟩

theorem pack_endsByCode : ∃ t, exec .pack s = .next t ∧ EndsByCode s t := by
  obtain ⟨t, hrun, ⟨hstatus, -⟩, -⟩ := exec_pack_spec s
  exact ⟨t, hrun, .of_status_zero hstatus⟩

theorem unpack_or_receive_endsByCode {i : Instr} (hi : i = .unpack ∨ i = .receive) :
    ∃ t, exec i s = .next t ∧ EndsByCode s t := by
  obtain ⟨t, hrun, hstatus, hpayload, hcrcOut, hframe⟩ := exec_unpack_or_receive_spec hi (carries_own_words s)
  have hcode := congrArg statusCode hstatus
  rw [statusCode_statusWord, validationCode_code] at hcode
  refine ⟨t, hrun, ?_⟩
  by_cases hmatch : payloadCrc (s.regs.highWord ++ s.regs.lowWord) = s.regs.crcWord.extractLsb' 0 4
  · exact .ok (hcode.trans (if_pos hmatch))
  · refine .mismatch (hcode.trans (if_neg hmatch)) (hframe hmatch) hpayload ?_
    rw [hcrcOut, zext_toNat, nibble_toNat]

theorem illegal_endsByCode (c : Word) : ∃ t, exec (.illegal c) s = .next t ∧ EndsByCode s t := by
  obtain ⟨t, hraise, hstatus, -, hframe⟩ := raise_spec s .illegalCommand
  exact ⟨t, hraise, .of_raised (.inr (.inr rfl)) hstatus hframe⟩

theorem decodeCommand_endsByCode (c : Word) : ∃ t, exec (decodeCommand c) s = .next t ∧ EndsByCode s t := by
  rw [decodeCommand]
  split
  · exact illegal_endsByCode s c
  · split
    · exact encode_or_send_endsByCode s (.inl rfl)
    · exact decode_endsByCode s
    · exact crc4_endsByCode s
    · exact pack_endsByCode s
    · exact unpack_or_receive_endsByCode s (.inl rfl)
    · exact encode_or_send_endsByCode s (.inr rfl)
    · exact unpack_or_receive_endsByCode s (.inr rfl)
    · exact illegal_endsByCode s c

end

/-- The end of a command, from the run itself. -/
theorem endsByCode_of_exec {i : Instr} (hi : i.isCommand = true) {s t : State} (hrun : exec i s = .next t) :
    EndsByCode s t := by
  obtain ⟨c, hc⟩ := exists_commandWord hi
  obtain ⟨t', hrun', hends⟩ := decodeCommand_endsByCode s c
  cases hrun.symm.trans ((congrFun hc s).trans hrun')
  exact hends

/-- Settles O39: a command ends in one of three ways, told apart by its code, and every transaction completes. -/
theorem errorsLeaveResultsAlone : Obligations.ErrorsLeaveResultsAlone := by
  intro i s t hi hrun
  cases endsByCode_of_exec hi hrun with
  | ok hcode =>
    refine ⟨fun herror => ?_, fun hmismatch => ?_, fun j => completes j t⟩
    · simp [hcode] at herror
    · simp [hcode] at hmismatch
  | error hcode hframe =>
    refine ⟨fun _ => hframe, fun hmismatch => ?_, fun j => completes j t⟩
    simp [hmismatch] at hcode
  | mismatch hcode hframe hpayload hcrcOut =>
    refine ⟨fun herror => ?_, fun _ => ⟨hframe, hpayload, hcrcOut⟩, fun j => completes j t⟩
    simp [hcode] at herror

/-! ### STATUS is not sticky (R224) -/

/-- Registers that differ only where they are overwritten are the same afterwards. -/
theorem Overwrites.eq_of_agree {ws : List Reg} {o : Regs → Regs} (hover : Overwrites ws o) {r r' : Regs}
    (hagree : ∀ g ∉ ws, r.get g = r'.get g) : o r = o r' := by
  refine Regs.ext_get fun g => ?_
  by_cases hwritten : g ∈ ws
  · rw [hover r r' g, if_pos hwritten]
  · rw [hover r r g, hover r' r' g, if_neg hwritten, if_neg hwritten, hagree g hwritten]

/-- STATUS is one register among the others. -/
theorem Regs.get_of_ne_status (r : Regs) (v : Word) {g : Reg} (hg : g ≠ .status) :
    { r with status := v }.get g = r.get g := by
  cases g with
  | status => exact absurd rfl hg
  | _ => rfl

/-- A command ends the same from two states that differ in STATUS alone: it reads no STATUS and overwrites all of it. -/
theorem ReportsFromOperands.exec_eq_of_status {i : Instr} (hform : ReportsFromOperands i) (s : State) (v : Word) :
    exec i { s with regs := { s.regs with status := v } } = exec i s := by
  obtain ⟨ws, o, k, c, e, hover, -, hruns⟩ := hform s.regs
  have hends : (o { s.regs with status := v }).report k c e = (o s.regs).report k c e :=
    (hover.andThen (overwrites_report k c e)).eq_of_agree fun g hkept =>
      Regs.get_of_ne_status s.regs v fun hg => hkept (by simp [hg])
  rw [hruns s fun _ _ => rfl,
    hruns _ fun g hg => Regs.get_of_ne_status s.regs v (not_mem_results_of_mem_operands i hg).2]
  exact congrArg s.finish hends

/-- A READ and a WRITE outside COMMAND leave STATUS, which is read-only to the host (R101). -/
theorem status_of_not_isCommand {i : Instr} (hi : i.isCommand = false) {s t : State} (hrun : exec i s = .next t) :
    t.regs.status = s.regs.status := by
  obtain ⟨a, x, rfl⟩ | ⟨a, d, ha, rfl⟩ := read_or_write_of_not_isCommand hi
  · cases (exec_read s a x).symm.trans hrun
    rfl
  · cases (exec_write_of_ne s ha d).symm.trans hrun
    exact (get_writeReg s.regs a d .status).trans (if_neg (by simp))

/-- Settles O41: a command's form says that STATUS is no operand and is overwritten; nothing else writes it. -/
theorem statusIsNotSticky : Obligations.StatusIsNotSticky := by
  refine ⟨fun i s v hi => ?_, fun i s t hi => status_of_not_isCommand hi⟩
  obtain ⟨c, hc⟩ := exists_commandWord hi
  rw [hc]
  exact (decodeCommand_reportsFromOperands c).exec_eq_of_status s v

end Sys2Proof.Machine
end

section
/-!
PROOFS. Encoding and decoding are inverse (30_encoding.md sections 1 and 2): a command word below 16 is one of the sixteen
rows of R73's table, every other one is illegal, and a transaction is the word of its own three fields.
-/

namespace Sys2Proof

/-! ### Command words -/

/-- R71: the transaction that writes `c` to COMMAND decodes to the command `c` encodes. -/
theorem decode_commandTransaction (c : Word) : decode (commandTransaction c) = decodeCommand c := by
  rw [← Machine.writeToCommand_eq, Machine.decode_writeToCommand]

/-- R73: what holds of the sixteen words with ZERO = 0 and of every word with a bit set in ZERO holds of every word. -/
theorem commandWord_cases {P : Word → Prop} (hrow : ∀ n < 16, P (BitVec.ofNat 16 n))
    (hzero : ∀ c, zeroField c ≠ 0#12 → P c) (c : Word) : P c := by
  by_cases h : zeroField c = 0#12
  · have hword := hrow c.toNat ((zeroField_eq_zero_iff c).1 h)
    rwa [BitVec.ofNat_toNat, BitVec.setWidth_eq] at hword
  · exact hzero c h

/-- R76: a word with a bit set in ZERO is no command's word. -/
theorem legalCommandWord_of_zeroField_ne {c : Word} (h : zeroField c ≠ 0#12) : legalCommandWord c = false := by
  have hbig : ¬ c.toNat < 16 := mt (zeroField_eq_zero_iff c).2 h
  have hle : ¬ c.toNat ≤ 7 := by omega
  simp [legalCommandWord, hle]

/-- R73, R76: the words that stand for no command are illegal. -/
theorem decodeCommand_of_not_legal (c : Word) : legalCommandWord c = false → decodeCommand c = .illegal c :=
  commandWord_cases (P := fun c => legalCommandWord c = false → decodeCommand c = .illegal c) (by decide)
    (fun _ h _ => decodeCommand_of_zeroField_ne h) c

/-- Every command word decodes to an instruction of the table. -/
theorem decodeCommand_wf (c : Word) : (decodeCommand c).wf = true := by
  refine commandWord_cases (P := fun c => (decodeCommand c).wf = true) (by decide) (fun c h => ?_) c
  rw [decodeCommand_of_zeroField_ne h, Instr.wf, legalCommandWord_of_zeroField_ne h]
  rfl

/-- The command a word decodes to encodes to the transaction that writes this word to COMMAND. -/
theorem encode_decodeCommand (c : Word) : encode (decodeCommand c) = commandTransaction c := by
  refine commandWord_cases (P := fun c => encode (decodeCommand c) = commandTransaction c) (by decide) (fun c h => ?_) c
  rw [decodeCommand_of_zeroField_ne h, encode]

/-! ### Transactions -/

/-- A transaction is the word with its own three fields (R70). -/
theorem htWord_fields (t : Transaction) : htWord (BitVec.ofBool (wrField t)) (addrField t) (dataField t) = t := by
  apply BitVec.eq_of_toNat_eq
  rw [htWord_toNat, BitVec.toNat_ofBool, ← toNat_of_fields]

/-- Settles O6: a READ and a WRITE give their fields back, and a command write is decoded by its word's row of R73. -/
theorem decodeOfEncode : Obligations.DecodeOfEncode := by
  intro i hwf
  cases i with
  | read a x => exact decode_htWord_read a x
  | write a d => exact decode_htWord_write (by simpa [Instr.wf, Config.commandAddr] using hwf) d
  | encode | decode | crc4 | pack | unpack | send | receive => exact decode_commandTransaction _
  | illegal c => exact (decode_commandTransaction c).trans (decodeCommand_of_not_legal c (by simpa [Instr.wf] using hwf))

/-- Settles O7: the three branches of R71, each encoding to the word of the transaction's own fields. -/
theorem encodeOfDecode : Obligations.EncodeOfDecode := by
  intro t
  have hfields := htWord_fields t
  rw [decode]
  by_cases hwr : wrField t = true
  · rw [hwr] at hfields
    rw [if_pos hwr]
    by_cases haddr : addrField t = Config.commandAddr
    · rw [if_pos haddr]
      rw [haddr] at hfields
      exact ⟨decodeCommand_wf _, (encode_decodeCommand _).trans hfields⟩
    · rw [if_neg haddr]
      exact ⟨bne_iff_ne.2 haddr, hfields⟩
  · rw [Bool.eq_false_iff.2 hwr] at hfields
    rw [if_neg hwr]
    exact ⟨rfl, hfields⟩

/-- Settles O8: the ten words are closed terms, which the decoder evaluates. -/
theorem sampleWordsDecode : Obligations.SampleWordsDecode := by
  unfold Obligations.SampleWordsDecode
  decide

end Sys2Proof
end

section
/-!
PROOFS. The step and the port (20_memory.md R60, 60_exceptions.md R221, R233): a step takes the first event off the port and
completes, and an idle one changes nothing.
-/

namespace Sys2Proof.Machine
open Sys2Proof.Claims

/-- Settles O2: an empty port has no next event. -/
theorem idleStepKeepsState : Obligations.IdleStepKeepsState := by
  intro s h
  rw [step, takeEvent_nil s h]

/-- A transaction issued next is the one the step performs. -/
theorem step_issueNext (s : State) (t : Transaction) : step (s.issueNext t) = exec (decode t) s :=
  step_of_transaction (s := s.issueNext t) rfl

/-- A table row's word is issued as the transaction it stands for (log entry 6). -/
theorem withFetchWord_of_ok (s : State) {nbits w : Nat} {t : Transaction} (h : tableTransaction nbits w = .ok t) :
    s.withFetchWord nbits w = s.issueNext t := by
  rw [State.withFetchWord, h]

/-- Settles O1: a step performs the transaction at the head of the port, and `withFetchWord` puts the row's word there. -/
theorem stepRunsIssuedTransaction : Obligations.StepRunsIssuedTransaction := by
  refine ⟨fun s t rest h => step_of_transaction h, fun s nbits w t h => ?_⟩
  rw [withFetchWord_of_ok s h, step_issueNext]

/-- Every transaction completes and leaves the events to come as they are. -/
theorem exec_keeps_port (i : Instr) (s : State) : ∃ t, exec i s = .next t ∧ t.port = s.port := by
  cases h : i.isCommand with
  | true =>
    obtain ⟨c, hc⟩ := exists_commandWord h
    rw [hc]
    exact exec_decodeCommand_keeps_port s c
  | false =>
    obtain ⟨a, x, rfl⟩ | ⟨a, d, ha, rfl⟩ := read_or_write_of_not_isCommand h
    · exact ⟨_, exec_read s a x, rfl⟩
    · exact ⟨_, exec_write_of_ne s ha d, rfl⟩

/-- One step takes exactly the first event off the port, whatever the event. -/
theorem step_takes_first_event {s : State} {e : PortEvent} {rest : List PortEvent} (h : s.port = e :: rest) :
    ∃ t, step s = .next t ∧ t.port = rest := by
  cases e with
  | transaction w =>
    rw [step_of_transaction h]
    exact exec_keeps_port (decode w) { s with port := rest }
  | reset => exact ⟨_, step_of_reset h, rfl⟩

/-- A run of one more step goes on from the state after the first. -/
theorem run_succ_of_step (M : Host.Core) {s t : M.State} (h : M.step s = .next t) (k : ℕ) :
    M.run (k + 1) s = M.run k t := by
  rw [Host.Core.run, h]

/-- As many steps as there are events perform all of them. -/
theorem run_empties_port (events : List PortEvent) :
    ∀ s : State, s.port = events → ∃ t, Host.Core.run core events.length s = .next t ∧ t.port = [] := by
  induction events with
  | nil => exact fun s h => ⟨s, rfl, h⟩
  | cons e rest ih =>
    intro s h
    obtain ⟨t, hstep, hrest⟩ := step_takes_first_event h
    obtain ⟨u, hrun, hempty⟩ := ih t hrest
    exact ⟨u, (run_succ_of_step core hstep rest.length).trans hrun, hempty⟩

/-- Settles O3: one step by the kind of its event, and a run by induction on the events at the port. -/
theorem eventsPerformedInIssueOrder : Obligations.EventsPerformedInIssueOrder :=
  ⟨fun _ _ _ => step_takes_first_event, fun s => run_empties_port s.port s rfl⟩

/-- Settles O4: every transaction completes, and a step performs a transaction, a reset or nothing. -/
theorem everyTransactionCompletes : Obligations.EveryTransactionCompletes := by
  refine ⟨completes, fun s => ?_⟩
  cases h : s.port with
  | nil => exact ⟨s, idleStepKeepsState s h⟩
  | cons e rest =>
    obtain ⟨t, hstep, -⟩ := step_takes_first_event h
    exact ⟨t, hstep⟩

end Sys2Proof.Machine
end

section
/-!
PROOFS. Reading back what was written (10_state.md R36, 20_memory.md section 5) and the pseudo-instructions that load a view
by one WRITE for each of its words (30_encoding.md section 5).
-/

namespace Sys2Proof.Machine
open Sys2Proof.Claims

variable (s : State) (r : Regs)

/-! ### READ after WRITE -/

/-- What a register reads after a WRITE to its number: the value under the mask, if the host may write it at all. -/
theorem readReg_writeReg_number (g : Reg) (d : Word) : readReg (writeReg r g.number d) g.number =
    if g = .status ∨ g = .command then r.get g &&& mask g else d &&& mask g := by
  rw [readReg_number, get_writeReg]
  by_cases h : g = .status ∨ g = .command
  · rw [if_pos h, if_neg (by tauto)]
  · rw [if_neg h, if_pos (by tauto), and_mask_mask]

/-- Settles O14: a number other than 16 names a register the host may write, or STATUS, or no register at all. -/
theorem readAfterWrite : Obligations.ReadAfterWrite := by
  intro s a d x ha
  refine ⟨_, _, exec_write_of_ne s ha d, exec_read _ a x, congrArg some ?_⟩
  show readReg (writeReg s.regs a d) a = _
  cases hreg : regAt a with
  | none =>
    have hbig : 17 ≤ a.toNat := (regAt_eq_none_iff a).1 hreg
    have hne : a ≠ 15#16 := by rintro rfl; simp at hbig
    rw [readReg_of_unimplemented _ hbig, if_neg (by omega), if_neg hne]
  | some g =>
    obtain rfl : g.number = a := (regAt_eq_some_iff a g).1 hreg
    rw [readReg_writeReg_number]
    cases g with
    | status => rfl
    | command => exact absurd rfl ha
    | _ => rfl

/-! ### The pseudo-loads -/

/-- A run that overwrites `ws` and stores nothing else has the frame of `ws`. -/
theorem Overwrites.sameExcept {ws : List Reg} {o : Regs → Regs} (hover : Overwrites ws o) :
    SameExcept ws s { s with regs := o s.regs, readData := none } :=
  SameExcept.of_get (fun g hg => (hover s.regs s.regs g).trans (if_neg hg)) rfl

/-- CRCIN's four words written one after another, most significant first (R52). -/
def Regs.putCrcIn (y : Word64) : Regs :=
  (((r.put .crcIn3 (y.extractLsb' 48 16)).put .crcIn2 (y.extractLsb' 32 16)).put
    .crcIn1 (y.extractLsb' 16 16)).put .crcIn0 (y.extractLsb' 0 16)

theorem putCrcIn_crcIn (y : Word64) : (r.putCrcIn y).crcIn = y := by
  apply crcIn_of_words <;> simp [Regs.putCrcIn, mask, and_allOnes_word]

theorem overwrites_putCrcIn (y : Word64) : Overwrites [.crcIn3, .crcIn2, .crcIn1, .crcIn0] (·.putCrcIn y) :=
  (((overwrites_put .crcIn3 _).andThen (overwrites_put .crcIn2 _)).andThen (overwrites_put .crcIn1 _)).andThen
    (overwrites_put .crcIn0 _)

/-- Reading the numbers 5 to 8 gives VALUE, most significant word first (R52). -/
theorem readReg_value : readReg r 5#16 ++ readReg r 6#16 ++ readReg r 7#16 ++ readReg r 8#16 = r.value := by
  have hread : ∀ g, mask g = 0xFFFF#16 → readReg r g.number = r.get g := fun g hg =>
    (readReg_number r g).trans (and_mask_of_full _ hg)
  have h3 : readReg r 5#16 = r.value3 := hread .value3 rfl
  have h2 : readReg r 6#16 = r.value2 := hread .value2 rfl
  have h1 : readReg r 7#16 = r.value1 := hread .value1 rfl
  have h0 : readReg r 8#16 = r.value0 := hread .value0 rfl
  rw [h3, h2, h1, h0, Regs.value]

/-- LEN of the word that crccfg writes (R30, R75). -/
theorem crcCfgWord_len (n : BitVec 7) (p : Poly) :
    (((p.setWidth 16 <<< 8) ||| n.setWidth 16) &&& mask .crcCfg).extractLsb' 0 7 = n := by
  have hn : (n.setWidth 16 : Word).extractLsb' 0 7 = n := by revert n; decide
  have hp : (p.setWidth 16 <<< 8 : Word).extractLsb' 0 7 = 0#7 := by revert p; decide
  have hmask : (mask .crcCfg).extractLsb' 0 7 = BitVec.allOnes 7 := by decide
  rw [BitVec.extractLsb'_and, BitVec.extractLsb'_or, hn, hp, hmask, BitVec.zero_or, BitVec.and_allOnes]

/-- POLY of the word that crccfg writes (R30, R75). -/
theorem crcCfgWord_poly (n : BitVec 7) (p : Poly) :
    (((p.setWidth 16 <<< 8) ||| n.setWidth 16) &&& mask .crcCfg).extractLsb' 8 5 = p := by
  have hn : (n.setWidth 16 : Word).extractLsb' 8 5 = 0#5 := by revert n; decide
  have hp : (p.setWidth 16 <<< 8 : Word).extractLsb' 8 5 = p := by revert p; decide
  have hmask : (mask .crcCfg).extractLsb' 8 5 = BitVec.allOnes 5 := by decide
  rw [BitVec.extractLsb'_and, BitVec.extractLsb'_or, hn, hp, hmask, BitVec.or_zero, BitVec.and_allOnes]

/-- Settles O43: each sequence of WRITEs stores the words of one view and nothing else. -/
theorem pseudoLoadsSetTheViews : Obligations.PseudoLoadsSetTheViews := by
  refine ⟨fun s v => ?_, fun s v => ?_, fun s w => ?_, fun s h l k => ?_, fun s n p => ?_⟩
  · exact ⟨{ s with regs := s.regs.putValue v, readData := none }, rfl, putValue_value s.regs v,
      (overwrites_putValue v).sameExcept s, (readReg_value _).trans (putValue_value s.regs v)⟩
  · exact ⟨{ s with regs := s.regs.putCrcIn v, readData := none }, rfl, putCrcIn_crcIn s.regs v,
      (overwrites_putCrcIn v).sameExcept s⟩
  · exact ⟨{ s with regs := s.regs.putPayload w, readData := none }, rfl, putPayload_payload s.regs w,
      (overwrites_putPayload w).sameExcept s⟩
  · exact ⟨{ s with regs := s.regs.putTriple h l k, readData := none }, rfl, putTriple_triple s.regs h l k,
      (overwrites_putTriple h l k).sameExcept s⟩
  · exact ⟨{ s with regs := s.regs.put .crcCfg ((p.setWidth 16 <<< 8) ||| n.setWidth 16), readData := none }, rfl,
      congrArg BitVec.toNat (crcCfgWord_len n p), crcCfgWord_poly n p, (overwrites_put .crcCfg _).sameExcept s⟩

end Sys2Proof.Machine
end

section
/-!
PROOFS. The command dispatch (40_host_bus.md R102) and what a command reads and writes (30_encoding.md R74): both from the
one form that every command has.
-/

namespace Sys2Proof.Machine
open Sys2Proof.Claims

/-- Settles O16: the step decodes as R102 dispatches, each command has the form of a report, and the tables are disjoint. -/
theorem commandWriteDispatch : Obligations.CommandWriteDispatch := by
  refine ⟨fun c _ _ hport => step_of_writeToCommand hport, fun c s => exec_write_commandAddr c s, fun c s => ?_,
    fun s hpayload => ?_, fun c g hg => ?_⟩
  · obtain ⟨t, recv, computed, code, hrun, hport, hdata, hstatus⟩ := (decodeCommand_reportsFromOperands c).ends s
    exact ⟨t, recv, computed, code, hrun, hdata, hport, hstatus⟩
  · obtain ⟨t, hrun, hvalue, hstatus⟩ := exec_decode_example hpayload
    exact ⟨t, (exec_write_commandAddr 0x0002#16 s).trans hrun, hvalue, hstatus⟩
  · obtain ⟨hresult, -⟩ := not_mem_results_of_mem_operands _ hg
    exact hresult

/-- R74: STATUS is a result of every command. -/
theorem status_mem_results (c : Word) : Reg.status ∈ results (decodeCommand c) := by
  rw [decodeCommand]
  split
  · exact List.mem_singleton_self _
  · split <;> simp [results]

/-- A command changes result registers only, and the operands decide STATUS. -/
theorem ReportsFromOperands.frames {i : Instr} (hform : ReportsFromOperands i) (hstatus : .status ∈ results i)
    {s s' t t' : State} (hagree : ∀ g ∈ operands i, s.regs.get g = s'.regs.get g) (hrun : exec i s = .next t)
    (hrun' : exec i s' = .next t') :
    SameExcept (results i) s t ∧ SameExcept (results i) s' t' ∧ t.regs.status = t'.regs.status := by
  obtain ⟨ws, o, k, c, e, hover, hsub, hruns⟩ := hform s'.regs
  have hwritten : ∀ g ∈ ws ++ [.status], g ∈ results i := by
    simpa only [List.forall_mem_append, List.forall_mem_singleton] using And.intro hsub hstatus
  cases (hruns s hagree).symm.trans hrun
  cases (hruns s' fun _ _ => rfl).symm.trans hrun'
  exact ⟨(hover.sameExcept_report s k c e).mono hwritten, (hover.sameExcept_report s' k c e).mono hwritten,
    (report_status _ _ _ _).trans (report_status _ _ _ _).symm⟩

/-- Settles O42: each register ends the same or as it was in both states, and those outside the results as they were. -/
theorem commandsUseOnlyTheirRegisters : Obligations.CommandsUseOnlyTheirRegisters := by
  rintro c s s' i rfl hagree
  have hform := decodeCommand_reportsFromOperands c
  obtain ⟨t, t', hrun, hrun', hsame⟩ := hform.same_or_kept hagree
  obtain ⟨hframe, hframe', hstatus⟩ := hform.frames (status_mem_results c) hagree hrun hrun'
  exact ⟨t, t', hrun, hrun', hframe, hframe', hstatus, fun g _ => hsame g⟩

end Sys2Proof.Machine
end

section
/-!
PROOFS. The invariant (10_state.md R30 to R32, R36, 60_exceptions.md R220): a register file that holds nothing outside the
masks keeps that under every store, and every command reports a STATUS word with what R220 records beside its code.
-/

namespace Sys2Proof.Machine
open Sys2Proof.Claims

/-! ### The reserved bits -/

/-- A word has none of the bits `m` exactly when it lies within the others. -/
theorem and_eq_zero_iff_and_not (v m : Word) : v &&& m = 0#16 ↔ v &&& ~~~m = v := by
  simp only [BitVec.eq_of_getElem_eq_iff, BitVec.getElem_and, BitVec.getElem_not, BitVec.getElem_zero]
  refine forall_congr' fun i => forall_congr' fun _ => ?_
  cases v[i] <;> simp

/-- The reserved bits are 0 exactly when no register holds a bit outside its mask (R36). -/
theorem reservedClear_iff (r : Regs) : r.ReservedClear ↔ ∀ g, r.get g &&& mask g = r.get g := by
  constructor
  · rintro ⟨hcfg, hout, hstatus⟩ g
    cases g with
    | crcCfg => exact (and_eq_zero_iff_and_not _ _).1 hcfg
    | crcOut => exact (and_eq_zero_iff_and_not _ _).1 hout
    | status => exact (and_eq_zero_iff_and_not _ _).1 hstatus
    | command => exact BitVec.zero_and
    | _ => exact and_allOnes_word _
  · intro h
    exact ⟨(and_eq_zero_iff_and_not _ _).2 (h .crcCfg), (and_eq_zero_iff_and_not _ _).2 (h .crcOut),
      (and_eq_zero_iff_and_not _ _).2 (h .status)⟩

section
variable {r : Regs} (h : r.ReservedClear)
include h

/-- Every store is under the mask, so it sets no reserved bit. -/
theorem Regs.ReservedClear.put (g : Reg) (v : Word) : (r.put g v).ReservedClear := by
  rw [reservedClear_iff] at h ⊢
  intro g'
  rw [Regs.get_put]
  split
  · exact and_mask_mask v g'
  · exact h g'

theorem Regs.ReservedClear.putPayload (w : Payload) : (r.putPayload w).ReservedClear := (h.put _ _).put _ _

theorem Regs.ReservedClear.putValue (y : Word64) : (r.putValue y).ReservedClear :=
  (((h.put _ _).put _ _).put _ _).put _ _

theorem Regs.ReservedClear.putCrcOut (c : Nibble) : (r.putCrcOut c).ReservedClear := h.put _ _

theorem Regs.ReservedClear.putTriple (a b c : Word) : (r.putTriple a b c).ReservedClear :=
  ((h.put _ _).put _ _).put _ _

theorem Regs.ReservedClear.report (k c : Nibble) (e : ResultCode) : (r.report k c e).ReservedClear := h.put _ _

/-- A WRITE stores as any other store does, or not at all (R101). -/
theorem Regs.ReservedClear.writeReg (a d : Word) : (writeReg r a d).ReservedClear := by
  rw [reservedClear_iff] at h ⊢
  intro g
  rw [get_writeReg]
  split
  · exact and_mask_mask d g
  · exact h g

end

/-! ### What STATUS records beside its code -/

/-- R220: both CRC fields are 0 beside every code but CHECKSUM_MISMATCH that a command reports without CRCs. -/
theorem statusCoherent_of_no_crcs {e : ResultCode} (he : e ≠ .checksumMismatch) :
    StatusCoherent (statusWord 0#4 0#4 e) := by
  revert he
  cases e <;> decide

/-- R182, R220: the code of a validation says whether the recorded CRCs agree. -/
theorem statusCoherent_of_validation (c k : Nibble) : StatusCoherent (statusWord k c (validationCode c k)) := by
  rw [StatusCoherent]
  simp only [statusCode_statusWord, statusCalc_statusWord, statusRecv_statusWord, validationCode_code]
  by_cases h : c = k <;> simp [h]

/-! ### The commands -/

/-- A transaction from a state with the invariant completes in one. -/
def KeepsInv (i : Instr) : Prop := ∀ s : State, s.Inv → ∃ t, exec i s = .next t ∧ t.Inv

/-- A command that ends with reserved bits 0 and a coherent report ends with the invariant. -/
theorem inv_of_report {r : Regs} (hr : r.ReservedClear) {k c : Nibble} {e : ResultCode}
    (he : StatusCoherent (statusWord k c e)) (s : State) :
    State.Inv { s with regs := r.report k c e, readData := none } :=
  ⟨hr.report k c e, (report_status r k c e).symm ▸ he⟩

/-- An error that is raised keeps the invariant. -/
theorem raise_keepsInv {s : State} (h : s.Inv) {e : ResultCode} (he : e ≠ .checksumMismatch) :
    ∃ t, s.raise e = .next t ∧ t.Inv :=
  ⟨_, raise_eq s e, inv_of_report h.1 (statusCoherent_of_no_crcs he) s⟩

/-- A command that succeeds keeps the invariant when its results do. -/
theorem succeed_keepsInv (s : State) {r : Regs} (hr : r.ReservedClear) : ∃ t, s.succeed r = .next t ∧ t.Inv :=
  ⟨_, succeed_eq s r, inv_of_report hr (statusCoherent_of_no_crcs (by decide)) s⟩

theorem enc32_err_ne_mismatch {x : Word64} {e : ResultCode} (h : enc32 x = .err e) : e ≠ .checksumMismatch := by
  obtain rfl | rfl := enc32_err h <;> nofun

theorem encode_keepsInv : KeepsInv .encode := by
  intro s h
  show ∃ t, execEncode s = .next t ∧ _
  rw [execEncode]
  cases henc : enc32 s.regs.value with
  | ok w => exact succeed_keepsInv s (h.1.putPayload w)
  | err e => exact raise_keepsInv h (enc32_err_ne_mismatch henc)

theorem decode_keepsInv : KeepsInv .decode := fun s h => succeed_keepsInv s (h.1.putValue _)

theorem crc4_keepsInv : KeepsInv .crc4 := by
  intro s h
  show ∃ t, execCrc4 s = .next t ∧ _
  rw [execCrc4]
  split
  · exact raise_keepsInv h nofun
  · exact succeed_keepsInv s (h.1.putCrcOut _)

theorem pack_keepsInv : KeepsInv .pack := fun s h => succeed_keepsInv s (h.1.putTriple _ _ _)

theorem unpack_keepsInv : KeepsInv .unpack := fun s h =>
  ⟨_, exec_unpack_eq (s := s) rfl,
    inv_of_report ((h.1.putPayload _).putCrcOut _) (statusCoherent_of_validation _ _) s⟩

theorem send_keepsInv : KeepsInv .send := by
  intro s h
  show ∃ t, execSend s = .next t ∧ _
  rw [execSend]
  cases henc : enc32 s.regs.value with
  | ok w => exact succeed_keepsInv s (((h.1.putPayload w).putCrcOut _).putTriple _ _ _)
  | err e => exact raise_keepsInv h (enc32_err_ne_mismatch henc)

/-- R201: the two endings of RECEIVE in one: VALUE is written exactly when the CRCs agree. -/
theorem exec_receive_eq {s : State} {w : Payload} {k : Nibble} (hunpacked : unpack s.regs.triple = (w, k)) :
    exec .receive s = s.finish
      ((if payloadCrc w = k then ((s.regs.putPayload w).putCrcOut k).putValue (dec32 w)
        else (s.regs.putPayload w).putCrcOut k).report k (payloadCrc w) (validationCode (payloadCrc w) k)) := by
  by_cases hmatch : payloadCrc w = k
  · rw [exec_receive_of_ok hunpacked (validate_of_match hmatch), if_pos hmatch, hmatch, validationCode, if_pos rfl]
  · rw [exec_receive_of_mismatch hunpacked (validate_of_mismatch hmatch), if_neg hmatch, validationCode,
      if_neg hmatch]

theorem receive_keepsInv : KeepsInv .receive := by
  intro s h
  refine ⟨_, exec_receive_eq (s := s) rfl, inv_of_report ?_ (statusCoherent_of_validation _ _) s⟩
  have hrebuilt := (h.1.putPayload (unpack s.regs.triple).1).putCrcOut (unpack s.regs.triple).2
  split
  · exact hrebuilt.putValue _
  · exact hrebuilt

theorem illegal_keepsInv (c : Word) : KeepsInv (.illegal c) := fun _ h => raise_keepsInv h nofun

theorem decodeCommand_keepsInv (c : Word) : KeepsInv (decodeCommand c) := by
  rw [decodeCommand]
  split
  · exact illegal_keepsInv c
  · split
    · exact encode_keepsInv
    · exact decode_keepsInv
    · exact crc4_keepsInv
    · exact pack_keepsInv
    · exact unpack_keepsInv
    · exact send_keepsInv
    · exact receive_keepsInv
    · exact illegal_keepsInv c

/-! ### Every transaction and every step -/

/-- A WRITE outside COMMAND stores under the mask and leaves STATUS, which is read-only to the host (R101). -/
theorem writeReg_keepsInv {r : Regs} (hr : r.ReservedClear) (hstatus : StatusCoherent r.status) (a d : Word) :
    (writeReg r a d).ReservedClear ∧ StatusCoherent (writeReg r a d).status := by
  have hkept : (writeReg r a d).status = r.status := (get_writeReg r a d .status).trans (if_neg (by simp))
  exact ⟨hr.writeReg a d, hkept.symm ▸ hstatus⟩

theorem exec_keepsInv (i : Instr) : KeepsInv i := by
  intro s h
  cases hi : i.isCommand with
  | true =>
    obtain ⟨c, hc⟩ := exists_commandWord hi
    rw [hc]
    exact decodeCommand_keepsInv c s h
  | false =>
    obtain ⟨a, x, rfl⟩ | ⟨a, d, ha, rfl⟩ := read_or_write_of_not_isCommand hi
    · exact ⟨_, exec_read s a x, h⟩
    · exact ⟨_, exec_write_of_ne s ha d, writeReg_keepsInv h.1 h.2 a d⟩

/-- Settles O10: the reset values have the reserved bits 0, and STATUS is 0. -/
theorem resetStateMeetsTheInvariant : Obligations.ResetStateMeetsTheInvariant := by
  unfold Obligations.ResetStateMeetsTheInvariant
  decide

/-- Settles O11: an idle step changes nothing, reset meets the invariant, and every transaction keeps it. -/
theorem stepKeepsTheInvariant : Obligations.StepKeepsTheInvariant := by
  intro s t h hstep
  cases hport : s.port with
  | nil =>
    rw [step, takeEvent_nil s hport] at hstep
    cases hstep
    exact h
  | cons e rest =>
    cases e with
    | reset =>
      cases (step_of_reset hport).symm.trans hstep
      exact resetStateMeetsTheInvariant
    | transaction w =>
      obtain ⟨u, hrun, hu⟩ := exec_keepsInv (decode w) { s with port := rest } h
      rw [step_of_transaction hport] at hstep
      cases hstep.symm.trans hrun
      exact hu

end Sys2Proof.Machine
end

section
/-!
PROOFS. The codec's laws (41_float_codec.md sections 1, 3 and 6): the fields of an encoded payload, that decoding and
encoding undo each other up to the 29 fraction bits cut off, and the real that an encoded payload stands for.
-/

namespace Sys2Proof.Machine
open Sys2Proof.Claims

/-- Settles O20: the algorithm and the closed form answer the same for each class of words. -/
theorem encoderClosedFormIsTheAlgorithm : Obligations.EncoderClosedFormIsTheAlgorithm := enc32Literal_eq_enc32

/-! ### The fields of a payload -/

theorem payload_exp_toNat (w : Payload) : (w.extractLsb' 23 8).toNat = w.toNat / 2 ^ 23 % 2 ^ 8 := by
  simp [BitVec.extractLsb'_toNat, Nat.shiftRight_eq_div_pow]

theorem payload_frac_toNat (w : Payload) : (w.extractLsb' 0 23).toNat = w.toNat % 2 ^ 23 := by
  simp [BitVec.extractLsb'_toNat]

theorem payload_sign_toNat (w : Payload) : (w.getLsbD 31).toNat = w.toNat / 2 ^ 31 := by
  rw [BitVec.getLsbD, Nat.toNat_testBit]
  omega

/-- A payload is its three fields (R121). -/
theorem payload_toNat_of_fields (w : Payload) : w.toNat =
    (w.getLsbD 31).toNat * 2 ^ 31 + (w.extractLsb' 23 8).toNat * 2 ^ 23 + (w.extractLsb' 0 23).toNat := by
  rw [payload_sign_toNat, payload_exp_toNat, payload_frac_toNat]
  omega

theorem boolToNat_injective {a b : Bool} (h : a.toNat = b.toNat) : a = b := by
  revert h
  cases a <;> cases b <;> decide

/-- `w` holds sign, exponent and upper 23 fraction bits of `x`, whose exponent is one a payload can hold (R121, R122). -/
structure EncodedFields (x : Word64) (w : Payload) : Prop where
  lower : 896 ≤ expField x
  upper : expField x ≤ 1151
  sign : w.getLsbD 31 = x.getLsbD 63
  exponent : (w.extractLsb' 23 8).toNat = expField x - 896
  fraction : (w.extractLsb' 0 23).toNat = fracField x / 2 ^ 29

/-- What enc32 answers with OK, unless it was given a zero. -/
theorem encodedFields_of_enc32 {x : Word64} {w : Payload} (henc : enc32 x = .ok w) (hzero : ¬ IsZero x) :
    EncodedFields x w := by
  by_cases hfin : NotFinite x
  · cases henc.symm.trans (enc32_of_notFinite hfin)
  obtain ⟨m, k, hx⟩ := exists_scientificForm hfin hzero
  have hrange : ¬ (expField x < 896 ∨ 1151 < expField x) := fun hout => by
    cases henc.symm.trans (hx.enc32_eq.trans (if_pos (hx.exponent_out_iff.2 hout)))
  have hword := hx.enc32_eq.trans (if_neg (mt hx.exponent_out_iff.1 hrange))
  rw [payload_fields_eq hrange] at hword
  cases henc.symm.trans hword
  have hfrac := fracField_lt x
  have hbit := (x.getLsbD 63).toNat_lt
  refine ⟨by omega, by omega, boolToNat_injective ?_, ?_, ?_⟩
  · rw [payload_sign_toNat, BitVec.toNat_ofNat]
    omega
  · rw [payload_exp_toNat, BitVec.toNat_ofNat]
    omega
  · rw [payload_frac_toNat, BitVec.toNat_ofNat]
    omega

/-! ### Round trips (41_float_codec.md section 6) -/

/-- The low 29 fraction bits cleared. -/
theorem toNat_clear_low_fraction (x : Word64) : (x &&& 0xFFFFFFFFE0000000#64).toNat = x.toNat / 2 ^ 29 * 2 ^ 29 := by
  have hmask : (0xFFFFFFFFE0000000#64 : Word64) = BitVec.allOnes 64 <<< 29 := by decide
  have hx := x.isLt
  rw [hmask, ← BitVec.shiftLeft_ushiftRight, BitVec.toNat_shiftLeft, BitVec.toNat_ushiftRight,
    Nat.shiftRight_eq_div_pow, Nat.shiftLeft_eq, Nat.mod_eq_of_lt (by omega)]

/-- Encoding and then decoding clears the 29 fraction bits that a payload cannot hold. -/
theorem dec32_of_enc32 {x : Word64} {w : Payload} (henc : enc32 x = .ok w) (hzero : ¬ IsZero x) :
    dec32 w = x &&& 0xFFFFFFFFE0000000#64 := by
  have hw := encodedFields_of_enc32 henc hzero
  have hlower := hw.lower
  apply BitVec.eq_of_toNat_eq
  rw [dec32_toNat, toNat_clear_low_fraction, hw.sign, hw.exponent, hw.fraction, toNat_of_word64_fields x]
  omega

/-- Decoding a payload and then encoding it gives it back. -/
theorem enc32_dec32 (w : Payload) : enc32 (dec32 w) = .ok w := by
  have hx := scientificForm_dec32 w
  have hexp := (w.extractLsb' 23 8).isLt
  have hrange : ¬ (expField (dec32 w) < 896 ∨ 1151 < expField (dec32 w)) := by
    rw [expField_dec32]
    omega
  rw [hx.enc32_eq, if_neg (mt hx.exponent_out_iff.1 hrange), payload_fields_eq hrange, signBit_dec32, expField_dec32,
    fracField_dec32, Nat.add_sub_cancel, Nat.mul_div_cancel _ (by positivity), ← payload_toNat_of_fields,
    BitVec.ofNat_toNat, BitVec.setWidth_eq]

/-- The zero payload is decoded as any other (R128). -/
theorem dec32_zero : dec32 0#32 = 0x3800000000000000#64 := by decide

/-- What the decoder makes of an encoded VALUE: cut to the payload's precision, or 2^-127 for a zero. -/
theorem dec32_of_enc32_ok {x : Word64} {w : Payload} (henc : enc32 x = .ok w) :
    (¬ IsZero x → dec32 w = x &&& 0xFFFFFFFFE0000000#64) ∧ (IsZero x → dec32 w = 0x3800000000000000#64) := by
  refine ⟨dec32_of_enc32 henc, fun hzero => ?_⟩
  cases henc.symm.trans (enc32_of_isZero hzero)
  exact dec32_zero

/-- ENCODE and SEND report OK exactly when VALUE encodes (R123, R200). -/
theorem exists_enc32_of_status_zero {i : Instr} (hi : i = .encode ∨ i = .send) {s t : State} (hrun : exec i s = .next t)
    (hstatus : t.regs.status = 0x0000#16) : ∃ w, enc32 s.regs.value = .ok w := by
  obtain ⟨t', hrun', -, herr⟩ := exec_encode_or_send_spec hi s
  cases hrun.symm.trans hrun'
  cases henc : enc32 s.regs.value with
  | ok w => exact ⟨w, rfl⟩
  | err e =>
    obtain ⟨hreport, -⟩ := herr e henc
    obtain rfl | rfl := enc32_err henc
    · exact absurd (hreport.symm.trans hstatus) (by decide)
    · exact absurd (hreport.symm.trans hstatus) (by decide)

/-- Settles O22: each command ends with its function's answer, and the functions undo each other. -/
theorem codecRoundTrips : Obligations.CodecRoundTrips := by
  refine ⟨fun s => ?_, fun s t hrun hstatus => ?_⟩
  · obtain ⟨t, hrun, hvalue, -⟩ := exec_decode_spec s
    obtain ⟨u, hrun', hok, -⟩ := exec_encode_spec t
    obtain ⟨hpayload, ⟨hstatus, -⟩, -⟩ := hok s.regs.payload (by rw [hvalue, enc32_dec32])
    exact ⟨t, u, hrun, hrun', hpayload, hstatus⟩
  · obtain ⟨w, henc⟩ := exists_enc32_of_status_zero (.inl rfl) hrun hstatus
    obtain ⟨t', hrun', hok, -⟩ := exec_encode_spec s
    cases hrun.symm.trans hrun'
    obtain ⟨hpayload, -⟩ := hok w henc
    obtain ⟨u, hdecode, hvalue, -⟩ := exec_decode_spec t
    rw [hpayload] at hvalue
    refine ⟨u, hdecode, ?_⟩
    rw [hvalue]
    exact dec32_of_enc32_ok henc

/-! ### The real of an encoded payload (41_float_codec.md section 3) -/

/-- The exponent of a real is the one power of 2 it lies above while the next lies above it. -/
theorem ScientificForm.exponent_eq {x : Word64} {m : ℚ} {k : ℤ} (hx : ScientificForm x m k) {e : ℤ}
    (hlo : (2 : ℚ) ^ e ≤ m * 2 ^ k) (hhi : m * 2 ^ k < (2 : ℚ) ^ (e + 1)) : e = k := by
  have hle : e ≤ k := (two_zpow_le_mul_zpow_iff hx.one_le hx.lt_two e k).1 hlo
  have hgt : ¬ e + 1 ≤ k := mt (two_zpow_le_mul_zpow_iff hx.one_le hx.lt_two (e + 1) k).2 hhi.not_ge
  omega

/-- The significand of a normal word in units of 2^-23, cut off: the implicit one and the upper 23 fraction bits. -/
theorem floor_significand (n : ℕ) : ⌊(1 + (n : ℚ) / 2 ^ 52) * 2 ^ 23⌋ = 2 ^ 23 + ((n / 2 ^ 29 : ℕ) : ℤ) := by
  have hscale : (1 + (n : ℚ) / 2 ^ 52) * 2 ^ 23 = ((n : ℚ) / (2 ^ 29 : ℕ)) + ((2 ^ 23 : ℤ) : ℚ) := by
    push_cast
    ring
  rw [hscale, Int.floor_add_intCast, Rat.floor_natCast_div_natCast, add_comm, Int.natCast_div]

/-- The magnitude `a` cut to 23 fraction bits below its leading power 2^e: to a whole number of units of 2^(e-23). -/
def truncated (a : ℚ) (e : ℤ) : ℚ := ⌊a * (2 : ℚ) ^ (23 - e)⌋ * (2 : ℚ) ^ (e - 23)

/-- The units of a truncation and their number cancel. -/
theorem mul_units_cancel (a : ℚ) (e : ℤ) : a * (2 : ℚ) ^ (23 - e) * 2 ^ (e - 23) = a := by
  rw [mul_assoc, ← zpow_add₀ two_ne_zero, sub_add_sub_cancel', sub_self, zpow_zero, mul_one]

/-- The encoded payload stands for the truncated magnitude, with the sign. -/
theorem payloadValue_of_enc32 {x : Word64} {w : Payload} {v : ℚ} {e : ℤ} (henc : enc32 x = .ok w) (hzero : ¬ IsZero x)
    (hv : value64 x = some v) (hlo : (2 : ℚ) ^ e ≤ |v|) (hhi : |v| < (2 : ℚ) ^ (e + 1)) :
    payloadValue w = (if v < 0 then -1 else 1) * truncated |v| e := by
  obtain ⟨m, k, hx⟩ := exists_scientificForm (not_notFinite_of_value64 hv) hzero
  cases hx.value.symm.trans hv
  rw [hx.abs_value] at hlo hhi ⊢
  obtain rfl := hx.exponent_eq hlo hhi
  have hw := encodedFields_of_enc32 henc hzero
  have hlower := hw.lower
  obtain ⟨hexponent, hsignificand⟩ := hx.normal (by omega)
  have hfloor : ⌊m * 2 ^ e * 2 ^ (23 - e)⌋ = 2 ^ 23 + ((w.extractLsb' 0 23).toNat : ℤ) := by
    have hunit : m * (2 : ℚ) ^ e * 2 ^ (23 - e) = m * 2 ^ 23 := by
      rw [mul_assoc, ← zpow_add₀ two_ne_zero, add_sub_cancel]
      rfl
    rw [hunit, hsignificand, floor_significand, hw.fraction]
  have hfield : ((w.extractLsb' 23 8).toNat : ℤ) - 127 = e := by
    rw [hw.exponent]
    omega
  have hpower : (2 : ℚ) ^ (e - 23) = 2 ^ e / 2 ^ 23 := zpow_sub₀ two_ne_zero e 23
  rw [payloadValue_eq, hfield, hw.sign, truncated, hfloor, hpower]
  simp only [hx.value_neg_iff]
  push_cast
  ring

theorem truncated_nonneg {a : ℚ} (ha : 0 ≤ a) (e : ℤ) : 0 ≤ truncated a e := by
  have hfloor : (0 : ℚ) ≤ ⌊a * (2 : ℚ) ^ (23 - e)⌋ := by exact_mod_cast Int.floor_nonneg.2 (by positivity)
  exact mul_nonneg hfloor (by positivity)

theorem truncated_le (a : ℚ) (e : ℤ) : truncated a e ≤ a := by
  calc truncated a e ≤ a * 2 ^ (23 - e) * 2 ^ (e - 23) := mul_le_mul_of_nonneg_right (Int.floor_le _) (by positivity)
    _ = a := mul_units_cancel a e

/-- Truncating loses less than one unit, and a unit is at most 2^-23 of a real from 2^e up. -/
theorem sub_truncated_lt {a : ℚ} {e : ℤ} (hlo : (2 : ℚ) ^ e ≤ a) : a - truncated a e < (2 : ℚ) ^ (-23 : ℤ) * a := by
  calc a - truncated a e = Int.fract (a * 2 ^ (23 - e)) * 2 ^ (e - 23) := by
        rw [Int.fract, sub_mul, mul_units_cancel, truncated]
    _ < 1 * 2 ^ (e - 23) := mul_lt_mul_of_pos_right (Int.fract_lt_one _) (by positivity)
    _ = 2 ^ (-23 : ℤ) * 2 ^ e := by rw [one_mul, ← zpow_add₀ two_ne_zero, neg_add_eq_sub]
    _ ≤ 2 ^ (-23 : ℤ) * a := by gcongr

/-- A whole number of units is not cut. -/
theorem truncated_eq_self {a : ℚ} {e n : ℤ} (h : a * (2 : ℚ) ^ (23 - e) = n) : truncated a e = a := by
  rw [truncated, h, Int.floor_intCast, ← h, mul_units_cancel]

/-- A sign does not change a magnitude. -/
theorem abs_sign_mul (v q : ℚ) : |(if v < 0 then -1 else 1) * q| = |q| := by
  split <;> simp

/-- Settles O23: the payload's real is the truncated one, and truncating loses less than 2^-23 of the magnitude. -/
theorem encodingTruncatesTowardZero : Obligations.EncodingTruncatesTowardZero := by
  intro x w v e henc hzero hv hlo hhi
  have hvalue := payloadValue_of_enc32 henc hzero hv hlo hhi
  have habs : |payloadValue w| = truncated |v| e := by
    rw [hvalue, abs_sign_mul, abs_of_nonneg (truncated_nonneg (abs_nonneg v) e)]
  rw [habs]
  refine ⟨?_, truncated_le |v| e, sub_truncated_lt hlo⟩
  rw [hvalue, truncated, mul_assoc]

/-- A real of at most 24 significant bits is a whole number of units of 2^-23 of its leading power of 2. -/
theorem whole_units {v : ℚ} {m k e : ℤ} (hv : v = m * (2 : ℚ) ^ k) (hm : |m| < 2 ^ 24) (hlo : (2 : ℚ) ^ e ≤ |v|) :
    ∃ n : ℤ, |v| * (2 : ℚ) ^ (23 - e) = n := by
  have habs : |v| = |m| * (2 : ℚ) ^ k := by
    rw [hv, abs_mul, abs_of_pos (by positivity : (0 : ℚ) < 2 ^ k)]
    push_cast
    rfl
  have hlt : (2 : ℚ) ^ e < 2 ^ (24 + k) := by
    calc (2 : ℚ) ^ e ≤ |m| * 2 ^ k := habs ▸ hlo
      _ < 2 ^ 24 * 2 ^ k := by gcongr; exact_mod_cast hm
      _ = 2 ^ (24 + k) := (zpow_add₀ two_ne_zero 24 k).symm
  have hexponent : e < 24 + k := (zpow_lt_zpow_iff_right₀ (by norm_num)).1 hlt
  obtain ⟨j, hj⟩ := Int.eq_ofNat_of_zero_le (show 0 ≤ k + (23 - e) by omega)
  refine ⟨|m| * 2 ^ j, ?_⟩
  rw [habs, mul_assoc, ← zpow_add₀ two_ne_zero, hj, zpow_natCast]
  push_cast
  rfl

/-- Every word that stands for a real in the range of R122 encodes. -/
theorem exists_enc32_of_range {x : Word64} {v : ℚ} (hv : value64 x = some v) (hlo : (2 : ℚ) ^ (-127 : ℤ) ≤ |v|)
    (hhi : |v| < (2 : ℚ) ^ 129) : ¬ IsZero x ∧ ∃ w, enc32 x = .ok w := by
  have hne : v ≠ 0 := abs_pos.1 (lt_of_lt_of_le (by positivity) hlo)
  have hout : ¬ OutOfRange x := by
    rintro ⟨v', hv', -, hrange⟩
    cases hv.symm.trans hv'
    exact hrange.elim hhi.not_ge hlo.not_gt
  exact ⟨not_isZero_of_value64 hv hne,
    exists_enc32_eq_ok (not_notFinite_of_value64 hv) (not_isZero_of_value64 hv hne) hout⟩

/-- Settles O24: truncation to 23 fraction bits takes nothing from a whole number of units. -/
theorem representableValuesEncodeExactly : Obligations.RepresentableValuesEncodeExactly := by
  intro x v m k hv hform hm hlo hhi
  obtain ⟨hzero, w, henc⟩ := exists_enc32_of_range hv hlo hhi
  obtain ⟨e, he, he'⟩ := exists_mem_Ico_zpow (y := (2 : ℚ)) (lt_of_lt_of_le (by positivity) hlo) (by norm_num)
  obtain ⟨n, hn⟩ := whole_units hform hm he
  refine ⟨w, henc, ?_⟩
  have hsign : (if v < 0 then -1 else 1) * |v| = v := by
    split
    · next h => rw [abs_of_neg h]; ring
    · next h => rw [abs_of_nonneg (not_lt.1 h), one_mul]
  calc payloadValue w = (if v < 0 then -1 else 1) * truncated |v| e := payloadValue_of_enc32 henc hzero hv he he'
    _ = v := by rw [truncated_eq_self hn, hsign]


end Sys2Proof.Machine
end

section
/-!
PROOFS. The shift register of 42_crc4.md section 2: after every position of the division the register holds what the next
four characters of the working buffer have gained, so at the end it holds the CRC; and what the polynomial's first character
does to it, which is nothing.
-/

namespace Sys2Proof.Machine
open Sys2Proof.Claims

/-! ### The register -/

/-- One turn of the register on the data bit `b`: shift, and add the polynomial's last four characters when the bit that
leaves and the data bit differ. -/
def shiftStep (p : Poly) (r : Nibble) (b : Bool) : Nibble :=
  (r <<< 1) ^^^ (if b ^^ r.getLsbD 3 then p.extractLsb' 0 4 else 0#4)

/-- The register after the first `i` bits of the data string `c`. -/
def registerAfter (p : Poly) (c : ℕ → Bool) : ℕ → Nibble
  | 0 => 0#4
  | i + 1 => shiftStep p (registerAfter p c i) (c i)

theorem registerAfter_eq_foldl (p : Poly) (c : ℕ → Bool) (i : ℕ) :
    registerAfter p c i = (List.range i).foldl (fun r j => shiftStep p r (c j)) 0#4 := by
  induction i with
  | zero => rfl
  | succ i ih => rw [registerAfter, ih, List.range_succ, List.foldl_append, List.foldl_cons, List.foldl_nil]

/-- The register of the claim is this one, on the data string of R151. -/
theorem shiftRegister_eq (d : Word64) (n : ℕ) (p : Poly) :
    shiftRegister d n p = registerAfter p (fun i => d.getLsbD (n - 1 - i)) n :=
  (registerAfter_eq_foldl p _ n).symm

/-- Every bit of the register moves up by one place. -/
theorem getLsbD_shiftStep_succ (p : Poly) (r : Nibble) (b : Bool) {j : ℕ} (hj : j < 3) :
    (shiftStep p r b).getLsbD (j + 1) = (r.getLsbD j ^^ ((b ^^ r.getLsbD 3) && p.getLsbD (j + 1))) := by
  have hbound : j + 1 < 4 := by omega
  rw [shiftStep, BitVec.getLsbD_xor, BitVec.getLsbD_shiftLeft]
  cases b ^^ r.getLsbD 3 <;> simp [hbound]

/-- The lowest place receives the polynomial's last character. -/
theorem getLsbD_shiftStep_zero (p : Poly) (r : Nibble) (b : Bool) :
    (shiftStep p r b).getLsbD 0 = ((b ^^ r.getLsbD 3) && p.getLsbD 0) := by
  rw [shiftStep, BitVec.getLsbD_xor, BitVec.getLsbD_shiftLeft]
  cases b ^^ r.getLsbD 3 <;> simp

/-! ### The division is the register -/

/-- What one position adds to the character `k` places after the next: the polynomial's character, within its window. -/
theorem divisionBuffer_succ (n : ℕ) (c q : ℕ → Bool) (i k : ℕ) : divisionBuffer n c q (i + 1) (i + 1 + k) =
    (divisionBuffer n c q i (i + (k + 1)) ^^ (decide (k < 4) && (divisionBuffer n c q i i && q (k + 1)))) := by
  have hplace : i + 1 + k = i + (k + 1) := by omega
  have hwindow : i ≤ i + (k + 1) ∧ i + (k + 1) ≤ i + 4 ↔ k < 4 := by omega
  rw [divisionBuffer, hplace, Nat.add_sub_cancel_left]
  simp only [hwindow]
  by_cases hk : k < 4 <;> cases divisionBuffer n c q i i <;> simp [hk]

/-- After `i` positions the buffer, from position `i` on, is the data with the register added to its first four characters. -/
theorem divisionBuffer_eq_registerAfter {n : ℕ} (c : ℕ → Bool) (p : Poly) {i : ℕ} (hi : i ≤ n) (k : ℕ) :
    divisionBuffer n c (fun j => p.getLsbD (4 - j)) i (i + k) =
      ((decide (i + k < n) && c (i + k)) ^^ (decide (k < 4) && (registerAfter p c i).getLsbD (3 - k))) := by
  induction i generalizing k with
  | zero => by_cases hk : k < n <;> simp [divisionBuffer, registerAfter, hk]
  | succ i ih =>
    have htest : divisionBuffer n c (fun j => p.getLsbD (4 - j)) i i = (c i ^^ (registerAfter p c i).getLsbD 3) := by
      have hdata : i < n := hi
      simpa [hdata] using ih (by omega) 0
    have hplace : i + (k + 1) = i + 1 + k := by omega
    rw [divisionBuffer_succ, ih (by omega), htest, hplace, registerAfter]
    obtain hk | rfl | hk : k < 3 ∨ k = 3 ∨ 4 ≤ k := by omega
    · obtain ⟨j, hj⟩ : ∃ j, 3 - k = j + 1 ∧ j < 3 := ⟨2 - k, by omega, by omega⟩
      have hlower : 3 - (k + 1) = j := by omega
      have hchar : 4 - (k + 1) = j + 1 := by omega
      have hin : k < 4 := by omega
      have hin' : k + 1 < 4 := by omega
      rw [hj.1, getLsbD_shiftStep_succ _ _ _ hj.2, hlower, hchar]
      simp only [hin, hin', decide_true, Bool.true_and, Bool.xor_assoc]
    · rw [Nat.sub_self, getLsbD_shiftStep_zero]
      simp
    · have hout : ¬ k < 4 := by omega
      have hout' : ¬ k + 1 < 4 := by omega
      simp only [hout, hout', decide_false, Bool.false_and, Bool.xor_false]

/-- The CRC is what the register holds after the last data bit. -/
theorem crc4w_eq_registerAfter (d : Word64) (n : ℕ) (p : Poly) :
    crc4w d n p = registerAfter p (fun i => d.getLsbD (n - 1 - i)) n := by
  apply BitVec.eq_of_getLsbD_eq
  intro j hj
  have hplace : j = 3 - (3 - j) := by omega
  have hchar : 3 - j < 4 := by omega
  rw [hplace, getLsbD_crc4w d n p hchar, divisionBuffer_eq_registerAfter _ p le_rfl]
  simp [hchar]

/-- Settles O26: by the buffer after each position, as the division visits them. -/
theorem crcIsAShiftRegister : Obligations.CrcIsAShiftRegister := fun d n p =>
  (crc4w_eq_registerAfter d n p).trans (shiftRegister_eq d n p).symm

/-! ### The polynomial's first character (42_crc4.md sections 2 and 3) -/

/-- The register reads the last four characters of the polynomial only. -/
theorem crc4w_congr_poly {p q : Poly} (h : p.extractLsb' 0 4 = q.extractLsb' 0 4) (d : Word64) (n : ℕ) :
    crc4w d n p = crc4w d n q := by
  have hstep : shiftStep p = shiftStep q := by
    funext r b
    rw [shiftStep, shiftStep, h]
  rw [crc4w_eq_registerAfter, crc4w_eq_registerAfter, registerAfter_eq_foldl, registerAfter_eq_foldl, hstep]

/-- With nothing to add, the register stays 0. -/
theorem registerAfter_poly_zero (c : ℕ → Bool) (i : ℕ) : registerAfter 0b00000#5 c i = 0#4 := by
  induction i with
  | zero => rfl
  | succ i ih =>
    rw [registerAfter, ih]
    cases c i <;> rfl

/-- R155: the polynomial 00000 gives 0. -/
theorem crc4w_poly_zero (d : Word64) (n : ℕ) : crc4w d n 0b00000#5 = 0#4 := by
  rw [crc4w_eq_registerAfter, registerAfter_poly_zero]

/-- Settles O27: the first character is not among the four the register reads, and 10000 has the four of 00000. -/
theorem firstPolynomialCharacterIgnored : Obligations.FirstPolynomialCharacterIgnored := by
  refine ⟨fun d n p => crc4w_congr_poly (by revert p; decide) d n, fun d n => ⟨crc4w_poly_zero d n, ?_⟩⟩
  rw [crc4w_congr_poly (q := 0b00000#5) (by decide), crc4w_poly_zero]

end Sys2Proof.Machine
end

section
/-!
PROOFS. The CRC as a remainder over GF(2) (42_crc4.md section 2): one turn of the register multiplies by x, adds the data bit
times x^4, and takes away the polynomial when that gives a power x^4.
-/

namespace Sys2Proof.Machine
open Sys2Proof.Claims Polynomial

/-! ### Strings as polynomials -/

/-- A bit as a constant over GF(2). -/
noncomputable def bitC (b : Bool) : (ZMod 2)[X] := C (if b then 1 else 0)

/-- Exclusive or is addition over GF(2). -/
theorem bitC_xor (a b : Bool) : bitC (a ^^ b) = bitC a + bitC b := by
  have hbits : (if a ^^ b then 1 else 0 : ZMod 2) = (if a then 1 else 0) + (if b then 1 else 0) := by
    revert a b
    decide
  rw [bitC, hbits, C_add]
  rfl

theorem bitC_and (a b : Bool) : bitC (a && b) = bitC a * bitC b := by
  cases a <;> simp [bitC]

@[simp] theorem bitC_false : bitC false = 0 := by simp [bitC]

@[simp] theorem bitC_true : bitC true = 1 := by simp [bitC]

theorem bitsPoly_eq_foldl (bs : List Bool) : bitsPoly bs = bs.foldl (fun acc b => acc * X + bitC b) 0 := rfl

/-- A further character makes the others one power higher. -/
theorem bitsPoly_concat (bs : List Bool) (b : Bool) : bitsPoly (bs ++ [b]) = bitsPoly bs * X + bitC b :=
  List.foldl_concat ..

theorem bitsPoly_nibbleString (r : Nibble) : bitsPoly (nibbleString r) =
    bitC (r.getLsbD 3) * X ^ 3 + bitC (r.getLsbD 2) * X ^ 2 + bitC (r.getLsbD 1) * X + bitC (r.getLsbD 0) := by
  rw [nibbleString, bitsPoly_eq_foldl]
  simp only [List.foldl_cons, List.foldl_nil]
  ring

/-- A nibble has degree below 4. -/
theorem degree_bitsPoly_nibbleString_lt (r : Nibble) : (bitsPoly (nibbleString r)).degree < (4 : ℕ) := by
  have hle : (bitsPoly (nibbleString r)).degree ≤ 3 := by
    rw [bitsPoly_nibbleString]
    simp only [bitC]
    compute_degree
  exact hle.trans_lt (by decide)

/-! The polynomial of a string whose first character is 1. -/

section
variable {p : Poly} (hp : p.getLsbD 4 = true)
include hp

/-- It is x^4 and what the last four characters make (R151). -/
theorem bitsPoly_polyString : bitsPoly (polyString p) = X ^ 4 + bitsPoly (nibbleString (p.extractLsb' 0 4)) := by
  have hstring : polyString p = true :: nibbleString (p.extractLsb' 0 4) := by
    revert p
    decide
  rw [hstring, bitsPoly_nibbleString, nibbleString, bitsPoly_eq_foldl]
  simp only [List.foldl_cons, List.foldl_nil, bitC_true]
  ring

theorem monic_polyString : (bitsPoly (polyString p)).Monic := by
  rw [bitsPoly_polyString hp]
  exact monic_X_pow_add (degree_bitsPoly_nibbleString_lt _)

theorem degree_polyString : (bitsPoly (polyString p)).degree = (4 : ℕ) := by
  have hlower := degree_bitsPoly_nibbleString_lt (p.extractLsb' 0 4)
  rw [bitsPoly_polyString hp, degree_add_eq_left_of_degree_lt (by rwa [degree_X_pow]), degree_X_pow]

/-! ### One turn of the register -/

/-- The register times x and the data bit times x^4 is the next register, or that and the polynomial, by the test. -/
theorem bitsPoly_shiftStep (r : Nibble) (b : Bool) :
    bitsPoly (nibbleString (shiftStep p r b)) + bitsPoly (polyString p) * bitC (b ^^ r.getLsbD 3) =
      bitsPoly (nibbleString r) * X + bitC b * X ^ 4 := by
  have hlast : ∀ j < 4, (p.extractLsb' 0 4).getLsbD j = p.getLsbD j := by
    revert p
    decide
  have htwo : (2 : (ZMod 2)[X]) = 0 := CharTwo.two_eq_zero
  rw [bitsPoly_polyString hp]
  simp only [bitsPoly_nibbleString, getLsbD_shiftStep_zero, getLsbD_shiftStep_succ p r b (j := 0) (by decide),
    getLsbD_shiftStep_succ p r b (j := 1) (by decide), getLsbD_shiftStep_succ p r b (j := 2) (by decide),
    hlast 0 (by decide), hlast 1 (by decide), hlast 2 (by decide), hlast 3 (by decide), bitC_xor, bitC_and]
  linear_combination ((bitC b + bitC (r.getLsbD 3)) * (bitC (p.getLsbD 3) * X ^ 3 + bitC (p.getLsbD 2) * X ^ 2 +
    bitC (p.getLsbD 1) * X + bitC (p.getLsbD 0))) * htwo

/-- The register after `i` bits is the data so far times x^4, up to a multiple of the polynomial. -/
theorem exists_quotient (c : ℕ → Bool) (i : ℕ) :
    ∃ q, bitsPoly (nibbleString (registerAfter p c i)) + bitsPoly (polyString p) * q =
      bitsPoly ((List.range i).map c) * X ^ 4 := by
  induction i with
  | zero =>
    refine ⟨0, ?_⟩
    rw [registerAfter, bitsPoly_nibbleString]
    simp [bitsPoly_eq_foldl]
  | succ i ih =>
    obtain ⟨q, hq⟩ := ih
    have hstep := bitsPoly_shiftStep hp (registerAfter p c i) (c i)
    refine ⟨q * X + bitC (c i ^^ (registerAfter p c i).getLsbD 3), ?_⟩
    rw [List.range_succ, List.map_append, List.map_singleton, bitsPoly_concat, registerAfter]
    linear_combination hstep + X * hq

end

/-- Settles O28: the register leaves a multiple of the polynomial and has degree below 4, so it is the remainder. -/
theorem crcIsThePolynomialRemainder : Obligations.CrcIsThePolynomialRemainder := by
  intro d n p hp
  obtain ⟨q, hq⟩ := exists_quotient hp (fun i => d.getLsbD (n - 1 - i)) n
  have hdegree : (bitsPoly (nibbleString (crc4w d n p))).degree < (bitsPoly (polyString p)).degree := by
    rw [degree_polyString hp]
    exact degree_bitsPoly_nibbleString_lt _
  rw [← crc4w_eq_registerAfter] at hq
  exact (div_modByMonic_unique q _ (monic_polyString hp) ⟨hq, hdegree⟩).2.symm

end Sys2Proof.Machine
end

section
/-!
PROOFS. What the CRC detects (42_crc4.md section 4): the register is linear in the data, so an error changes the CRC by the
error's own CRC; that of one flipped bit is the polynomial's last four characters, turned once for each bit that follows.
-/

namespace Sys2Proof.Machine
open Sys2Proof.Claims

/-! ### Linearity -/

theorem shiftStep_xor (p : Poly) (r r' : Nibble) (b b' : Bool) :
    shiftStep p (r ^^^ r') (b ^^ b') = shiftStep p r b ^^^ shiftStep p r' b' := by
  have hadd : ∀ (u v : Bool) (q : Nibble),
      (if u ^^ v then q else 0#4) = (if u then q else 0#4) ^^^ (if v then q else 0#4) := by decide
  have htest : (b ^^ b' ^^ (r ^^^ r').getLsbD 3) = ((b ^^ r.getLsbD 3) ^^ (b' ^^ r'.getLsbD 3)) := by
    simp only [BitVec.getLsbD_xor, Bool.xor_assoc, Bool.xor_left_comm]
  rw [shiftStep, shiftStep, shiftStep, htest, hadd, BitVec.shiftLeft_xor_distrib]
  ac_rfl

theorem registerAfter_xor (p : Poly) (c c' : ℕ → Bool) (i : ℕ) :
    registerAfter p (fun j => c j ^^ c' j) i = registerAfter p c i ^^^ registerAfter p c' i := by
  induction i with
  | zero => exact BitVec.xor_self.symm
  | succ i ih => rw [registerAfter, ih, shiftStep_xor, registerAfter, registerAfter]

/-- The CRC of an exclusive or (42_crc4.md section 4). -/
theorem crc4w_xor (d e : Word64) (n : ℕ) (p : Poly) : crc4w (d ^^^ e) n p = crc4w d n p ^^^ crc4w e n p := by
  simp only [crc4w_eq_registerAfter, BitVec.getLsbD_xor, registerAfter_xor]

/-- While no data bit is set the register stays 0. -/
theorem registerAfter_of_false (p : Poly) {c : ℕ → Bool} {i : ℕ} (hc : ∀ j < i, c j = false) :
    registerAfter p c i = 0#4 := by
  induction i with
  | zero => rfl
  | succ i ih =>
    have hstep : shiftStep p 0#4 false = 0#4 := by simp [shiftStep]
    rw [registerAfter, ih fun j hj => hc j (by omega), hc i (by omega), hstep]

theorem crc4w_zero (n : ℕ) (p : Poly) : crc4w 0#64 n p = 0#4 := by
  rw [crc4w_eq_registerAfter, registerAfter_of_false p (by simp)]

/-- The wire CRC of an exclusive or. -/
theorem payloadCrc_xor (w e : Payload) : payloadCrc (w ^^^ e) = payloadCrc w ^^^ payloadCrc e := by
  rw [payloadCrc, BitVec.setWidth_xor, crc4w_xor]
  rfl

/-! ### One flipped bit -/

/-- The register `k` turns without a data bit after the turn that took in a single one. -/
def impulse (p : Poly) (k : ℕ) : Nibble := (shiftStep p · false)^[k] (p.extractLsb' 0 4)

theorem impulse_succ (p : Poly) (k : ℕ) : impulse p (k + 1) = shiftStep p (impulse p k) false :=
  Function.iterate_succ_apply' ..

/-- A single data bit, with `k` bits after it. -/
theorem registerAfter_single (p : Poly) {c : ℕ → Bool} {j k : ℕ} (hc : ∀ i < j + 1 + k, c i = decide (i = j)) :
    registerAfter p c (j + 1 + k) = impulse p k := by
  induction k with
  | zero =>
    have hbefore : registerAfter p c j = 0#4 := registerAfter_of_false p fun i hi => by
      rw [hc i (by omega), decide_eq_false (by omega)]
    have htest : shiftStep p 0#4 true = p.extractLsb' 0 4 := by simp [shiftStep]
    rw [Nat.add_zero, registerAfter, hbefore, hc j (by omega), decide_eq_true rfl, htest]
    rfl
  | succ k ih =>
    rw [← Nat.add_assoc, registerAfter, ih fun i hi => hc i (by omega), hc _ (by omega), decide_eq_false (by omega),
      impulse_succ]

/-- The CRC of a single bit depends on its place only, not on the length (42_crc4.md section 4). -/
theorem crc4w_single {n k : ℕ} (hk : k < n) (hword : k < 64) (p : Poly) : crc4w (1#64 <<< k) n p = impulse p k := by
  obtain ⟨j, rfl⟩ := Nat.exists_eq_add_of_lt hk
  have hlength : k + j + 1 = j + 1 + k := by omega
  rw [crc4w_eq_registerAfter, hlength]
  refine registerAfter_single p fun i hi => ?_
  have hplace : k = j + 1 + k - 1 - i ↔ i = j := by omega
  simp only [← BitVec.twoPow_eq, BitVec.getLsbD_twoPow, hword, hplace, decide_true, Bool.true_and]

/-- With the default polynomial a turn takes no register but 0 to 0, so a single bit never vanishes. -/
theorem impulse_default_ne_zero (k : ℕ) : impulse Config.defaultPoly k ≠ 0#4 := by
  have hstep : ∀ r : Nibble, r ≠ 0#4 → shiftStep Config.defaultPoly r false ≠ 0#4 := by decide
  induction k with
  | zero => decide
  | succ k ih =>
    rw [impulse_succ]
    exact hstep _ ih

/-- With the default polynomial 15 turns bring every register back. -/
theorem impulse_default_add_fifteen (k : ℕ) : impulse Config.defaultPoly (k + 15) = impulse Config.defaultPoly k := by
  have hperiod : ∀ r : Nibble, (shiftStep Config.defaultPoly · false)^[15] r = r := by decide
  rw [impulse, Nat.add_comm, Function.iterate_add_apply, hperiod]
  rfl

/-- The syndrome table lists the CRCs of the single payload bits. -/
theorem impulse_default_eq_syndrome : ∀ k < 32, impulse Config.defaultPoly k = syndrome.getD k 0#4 := by
  decide

/-- A single payload bit is a single bit of the data word (R151). -/
theorem payloadCrc_single {k : ℕ} (hk : k < 32) : payloadCrc (1#32 <<< k) = impulse Config.defaultPoly k := by
  have hword : (1#32 <<< k : Payload).setWidth 64 = 1#64 <<< k := by
    have hlong : k < 64 := by omega
    apply BitVec.eq_of_getLsbD_eq
    intro i hi
    simp only [← BitVec.twoPow_eq, BitVec.getLsbD_setWidth, BitVec.getLsbD_twoPow, hk, hlong, hi, decide_true,
      Bool.true_and]
  rw [payloadCrc, hword]
  exact crc4w_single hk (by omega) _

theorem payloadCrc_flip (w : Payload) {k : ℕ} (hk : k < 32) :
    payloadCrc (w ^^^ (1#32 <<< k)) = payloadCrc w ^^^ impulse Config.defaultPoly k := by
  rw [payloadCrc_xor, payloadCrc_single hk]

theorem xor_ne_self {r e : Nibble} (he : e ≠ 0#4) : r ^^^ e ≠ r := by
  revert r e
  decide

theorem payloadCrc_flip_ne (w : Payload) {k : ℕ} (hk : k < 32) : payloadCrc (w ^^^ (1#32 <<< k)) ≠ payloadCrc w := by
  rw [payloadCrc_flip w hk]
  exact xor_ne_self (impulse_default_ne_zero k)

/-- Two flipped payload bits 15 apart change the CRC by the same nibble twice. -/
theorem payloadCrc_flip_pair (w : Payload) {k : ℕ} (hk : k + 15 < 32) :
    payloadCrc (w ^^^ (1#32 <<< k) ^^^ (1#32 <<< (k + 15))) = payloadCrc w := by
  rw [payloadCrc_flip _ hk, payloadCrc_flip w (by omega), impulse_default_add_fifteen, BitVec.xor_assoc, BitVec.xor_self,
    BitVec.xor_zero]

/-- Settles O30: the register is linear, and 15 turns of it bring a flipped bit back. -/
theorem crcIsLinearInTheData : Obligations.CrcIsLinearInTheData :=
  ⟨crc4w_xor, crc4w_zero, fun w _ => payloadCrc_flip_pair w⟩

/-- Settles O29: one flipped bit changes the CRC by its impulse, which is never 0 and which the table lists. -/
theorem singleBitErrorsChangeTheCrc : Obligations.SingleBitErrorsChangeTheCrc := by
  refine ⟨fun d n k hn hk => ?_, fun w k hk => ?_, by decide⟩
  · rw [crc4w_xor, crc4w_single hk (by omega)]
    exact xor_ne_self (impulse_default_ne_zero k)
  · rw [payloadCrc_flip w hk, impulse_default_eq_syndrome k hk]

end Sys2Proof.Machine
end

section
/-!
PROOFS. The wire block end to end (43_register_packer.md section 3, 44_pipelines.md): PACK and UNPACK undo each other, SEND
is the sequence of its parts, RECEIVE takes in what SEND sent, and tampering is reported when it changes the CRC.
-/

namespace Sys2Proof.Machine
open Sys2Proof.Claims

/-! ### PACK and UNPACK -/

/-- The low four bits, cut out and extended again. -/
theorem zext_nibble (k : Word) : (k.extractLsb' 0 4).setWidth 16 = k &&& 0x000F#16 := by
  apply BitVec.eq_of_toNat_eq
  rw [zext_toNat, nibble_toNat, BitVec.toNat_and]
  exact (Nat.and_two_pow_sub_one_eq_mod k.toNat 4).symm

/-- A validation reports OK exactly for equal CRCs (R182). -/
theorem statusCode_eq_zero_iff {st : Word} {k c : Nibble} (h : st = statusWord k c (validationCode c k)) :
    statusCode st = 0#3 ↔ c = k := by
  rw [h, statusCode_statusWord, validationCode_code]
  by_cases hck : c = k <;> simp [hck]

/-- PACK and then UNPACK: the wire block carries what was packed. -/
theorem pack_then_unpack (s : State) : ∃ t u, exec .pack s = .next t ∧ exec .unpack t = .next u ∧
    u.regs.payload = s.regs.payload ∧ u.regs.crcOut = s.regs.crcOut &&& 0x000F#16 ∧
    (statusCode u.regs.status = 0#3 ↔ s.regs.crcOut.extractLsb' 0 4 = payloadCrc s.regs.payload) := by
  obtain ⟨t, hpack, -, -, htriple⟩ := exec_pack_spec s
  obtain ⟨u, hunpack, -, ⟨hstatus, -⟩, hpayload, hcrcOut⟩ :=
    exec_unpack_spec (unpack_of_carries (carries_of_triple htriple))
  exact ⟨t, u, hpack, hunpack, hpayload, hcrcOut.trans (zext_nibble _),
    (statusCode_eq_zero_iff hstatus).trans eq_comm⟩

/-- UNPACK and then PACK: the wire block is rebuilt from what was unpacked. -/
theorem unpack_then_pack (s : State) : ∃ t u, exec .unpack s = .next t ∧ exec .pack t = .next u ∧
    u.regs.highWord = s.regs.highWord ∧ u.regs.lowWord = s.regs.lowWord ∧
    u.regs.crcWord = s.regs.crcWord &&& 0x000F#16 := by
  obtain ⟨t, hunpack, -, -, hpayload, hcrcOut⟩ := exec_unpack_spec (unpack_of_carries (carries_own_words s))
  obtain ⟨u, hpack, -, -, htriple⟩ := exec_pack_spec t
  rw [hpayload, Regs.crcOutNibble, hcrcOut, nibble_zext] at htriple
  obtain ⟨hhigh, hlow, hcrc⟩ := Triple.mk.inj htriple
  exact ⟨t, u, hunpack, hpack, hhigh.trans (high_half _ _), hlow.trans (low_half _ _), hcrc.trans (zext_nibble _)⟩

/-- Settles O33: each of the two finds the block, or the payload and CRC, that the other left. -/
theorem packAndUnpackAreInverse : Obligations.PackAndUnpackAreInverse := ⟨pack_then_unpack, unpack_then_pack⟩

/-! ### SEND and its parts -/

/-- A command that overwrites and then reports does not depend on an earlier report. -/
theorem Overwrites.report_absorbs {ws : List Reg} {o : Regs → Regs} (hover : Overwrites ws o) (r : Regs) (k c k' c' : Nibble)
    (e e' : ResultCode) : (o (r.report k c e)).report k' c' e' = (o r).report k' c' e' := by
  refine (hover.andThen (overwrites_report k' c' e')).eq_of_agree fun g hg => ?_
  rw [get_report, if_neg fun h => hg (by simp [h])]

/-- The wire block that PACK and SEND write: `TRIPLE <- pack(w, c)` (R183, R200). -/
def Regs.putPacked (r : Regs) (w : Payload) (c : Nibble) : Regs :=
  r.putTriple (pack w c).high (pack w c).low (pack w c).crc

theorem exec_pack_eq (s : State) : exec .pack s = .next { s with
    regs := (s.regs.putPacked s.regs.payload s.regs.crcOutNibble).report 0#4 0#4 .ok, readData := none } := rfl

/-- SEND when VALUE encodes (R200). -/
theorem exec_send_of_ok {s : State} {w : Payload} (henc : enc32 s.regs.value = .ok w) :
    exec .send s =
      s.succeed (((s.regs.putPayload w).putCrcOut (payloadCrc w)).putPacked w (payloadCrc w)) := by
  show execSend s = _
  rw [execSend, henc]
  rfl

/-- ENCODE when VALUE encodes (R123). -/
theorem exec_encode_of_ok {s : State} {w : Payload} (henc : enc32 s.regs.value = .ok w) :
    exec .encode s = s.succeed (s.regs.putPayload w) := by
  show execEncode s = _
  rw [execEncode, henc]

/-- A run goes on from the state its first instruction leaves. -/
theorem execAll_cons_of_next {i : Instr} {s t : State} (h : exec i s = .next t) (is : List Instr) :
    execAll (i :: is) s = execAll is t := by
  rw [execAll, h]

/-- CRC_OUT written by the host and then packed: PAYLOAD and this CRC in the wire block, as SEND packs them. -/
theorem execAll_writeCrc_pack (t : State) (c : Nibble) : execAll [.write 14#16 (c.setWidth 16), .pack] t =
    some { t with
      regs := ((t.regs.putCrcOut c).putPacked t.regs.payload c).report 0#4 0#4 .ok, readData := none } := by
  have hwrite : exec (.write 14#16 (c.setWidth 16)) t =
      .next { t with regs := t.regs.putCrcOut c, readData := none } := rfl
  have hcrc : (t.regs.putCrcOut c).crcOutNibble = c := by rw [Regs.crcOutNibble, putCrcOut_crcOut, nibble_zext]
  rw [execAll_cons_of_next hwrite, execAll_cons_of_next (exec_pack_eq _), execAll]
  dsimp only
  rw [putCrcOut_payload, hcrc]

/-- Settles O36: the parts store what SEND stores; ENCODE's own report in STATUS is overwritten by PACK's. -/
theorem sendIsEncodeThenCrcThenPack : Obligations.SendIsEncodeThenCrcThenPack := by
  intro s t hrun hstatus
  obtain ⟨w, henc⟩ := exists_enc32_of_status_zero (.inl rfl) hrun hstatus
  cases hrun.symm.trans ((exec_encode_of_ok henc).trans (succeed_eq s _))
  have hpayload : ((s.regs.putPayload w).report 0#4 0#4 .ok).payload = w := by
    rw [report_payload, putPayload_payload]
  refine ⟨_, _, execAll_writeCrc_pack _ _, (exec_send_of_ok henc).trans (succeed_eq s _), ?_⟩
  simp only [hpayload]
  exact (((overwrites_putCrcOut _).andThen (overwrites_packed w _)).report_absorbs _ _ _ _ _ _ _).symm

/-! ### SEND and RECEIVE -/

/-- Settles O38: the block carries the payload and its own CRC, so RECEIVE decodes what SEND encoded. -/
theorem sentValuesAreReceived : Obligations.SentValuesAreReceived := by
  intro s t r hrun hstatus htriple
  obtain ⟨w, henc⟩ := exists_enc32_of_status_zero (.inr rfl) hrun hstatus
  obtain ⟨t', hrun', -, -, -, hpacked, -⟩ := exec_send_spec_of_ok henc
  cases hrun.symm.trans hrun'
  have hcarries : Carries r w (payloadCrc w) := carries_of_triple (htriple.trans hpacked)
  obtain ⟨u, hreceive, ⟨hreport, -⟩, -, -, hvalue, -⟩ := exec_receive_spec_of_match hcarries rfl
  refine ⟨u, hreceive, ?_, ?_⟩
  · rw [hreport, statusCode_statusWord]
    rfl
  · rw [hvalue]
    exact dec32_of_enc32_ok henc

/-! ### Tampering -/

section
variable {i : Instr} (hi : i = .unpack ∨ i = .receive) {s : State} {w : Payload} {k : Nibble}
include hi

/-- A CRC that is not the payload's own is reported, and VALUE is kept (R184, R201). -/
theorem reports_mismatch (hcarries : Carries s w k) (hne : payloadCrc w ≠ k) :
    ∃ t, exec i s = .next t ∧ statusCode t.regs.status = 2#3 ∧ t.regs.value = s.regs.value := by
  obtain ⟨t, hrun, hstatus, -, -, hframe⟩ := exec_unpack_or_receive_spec hi hcarries
  refine ⟨t, hrun, ?_, value_congr fun g hg => (hframe hne).1 g ?_⟩
  · rw [hstatus, statusCode_statusWord, validationCode_code, if_neg hne]
  · revert g
    decide

/-- The payload's own CRC is reported as OK. -/
theorem reports_ok (hcarries : Carries s w k) (heq : payloadCrc w = k) :
    ∃ t, exec i s = .next t ∧ statusCode t.regs.status = 0#3 := by
  obtain ⟨t, hrun, hstatus, -⟩ := exec_unpack_or_receive_spec hi hcarries
  exact ⟨t, hrun, (statusCode_eq_zero_iff hstatus).2 heq⟩

end

/-- A flipped CRC bit makes another CRC. -/
theorem ne_xor_bit (c : Nibble) {k : ℕ} (hk : k < 4) : c ≠ c ^^^ (1#4 <<< k) := by
  have hbit : ∀ k < 4, (1#4 <<< k : Nibble) ≠ 0#4 := by decide
  exact (xor_ne_self (hbit k hk)).symm

/-- Settles O34: whether a tampered block is reported is whether its CRC is still its payload's own. -/
theorem tamperingIsDetected : Obligations.TamperingIsDetected := fun _ w _ hi =>
  ⟨fun _ hk hcarries => reports_mismatch hi hcarries (payloadCrc_flip_ne w hk),
    fun _ hk hcarries => reports_mismatch hi hcarries (ne_xor_bit _ hk),
    fun _ hk hcarries => reports_ok hi hcarries (payloadCrc_flip_pair w hk),
    fun hcarries => reports_ok hi hcarries rfl⟩

end Sys2Proof.Machine
end
